-- ==== Sys2Proof/Word.lean ====
section
/-! DEFINITION. The word types of the block (00_scope.md R13, R15, R16, R21). -/

namespace Sys2Proof

/-- `u32`: registers, phase words, command and sample words (R15). -/
abbrev Word := BitVec 32

/-- `u64`: the two 64-bit counters (R15, R48). -/
abbrev DWord := BitVec 64

/-- A real of the spec, held as its IEEE 754 binary64 encoding (R16). A type of its own, so
that integer operations on the encoding are never mistaken for arithmetic on the value. -/
structure F64 where
  bits : BitVec 64
deriving DecidableEq, Repr, Inhabited

/-- A complex value: a pair of binary64 values (R21). -/
structure Cplx where
  re : F64
  im : F64
deriving DecidableEq, Repr, Inhabited

end Sys2Proof
end

