-- ==== Sys2Proof/Syntax.lean ====
section
/-! DEFINITION. The instructions of the block: one constructor for each row of
spec/opcode_table.json, in the table's order (30_encoding.md R113, R114). A command carries no
operand in its word (R112): its real operands are ARG0 and ARG1. -/

namespace Sys2Proof

/-- The 36 command words of format C and the one operation of format S (R110, R113). -/
inductive Instr where
  | nop  -- NOP, R370
  | apply  -- APPLY, R371
  | reset  -- RESET, R375
  | evFlush  -- EV.FLUSH, R376
  | ncoSetfreqMix  -- NCO.SETFREQ_MIX, R160
  | ncoSetfreqTim  -- NCO.SETFREQ_TIM, R160
  | ncoSetfreqCar  -- NCO.SETFREQ_CAR, R160
  | ncoSetphaseMix  -- NCO.SETPHASE_MIX, R161
  | ncoSetphaseTim  -- NCO.SETPHASE_TIM, R161
  | ncoSetphaseCar  -- NCO.SETPHASE_CAR, R161
  | ncoValueMix  -- NCO.VALUE_MIX, R162
  | ncoValueTim  -- NCO.VALUE_TIM, R162
  | ncoValueCar  -- NCO.VALUE_CAR, R162
  | ncoAdvanceMix  -- NCO.ADVANCE_MIX, R163
  | ncoAdvanceTim  -- NCO.ADVANCE_TIM, R163
  | ncoAdvanceCar  -- NCO.ADVANCE_CAR, R163
  | ncoAdvfracMix  -- NCO.ADVFRAC_MIX, R164
  | ncoAdvfracTim  -- NCO.ADVFRAC_TIM, R164
  | ncoAdvfracCar  -- NCO.ADVFRAC_CAR, R164
  | ncoSetpointMix  -- NCO.SETPOINT_MIX, R165
  | ncoSetpointTim  -- NCO.SETPOINT_TIM, R165
  | ncoSetpointCar  -- NCO.SETPOINT_CAR, R165
  | ncoPassedMix  -- NCO.PASSED_MIX, R166
  | ncoPassedTim  -- NCO.PASSED_TIM, R166
  | ncoPassedCar  -- NCO.PASSED_CAR, R166
  | dlPushDlTim  -- DL.PUSH_DL_TIM, R191
  | dlPushDlSym  -- DL.PUSH_DL_SYM, R191
  | mfPush  -- MF.PUSH, R212
  | emaPushBtS  -- EMA.PUSH_BT_S, R196
  | emaPushBtL  -- EMA.PUSH_BT_L, R196
  | emaPushQgMse  -- EMA.PUSH_QG_MSE, R196
  | emaPushTed  -- EMA.PUSH_TED, R196
  | resPush  -- RES.PUSH, R217
  | agcPush  -- AGC.PUSH, R207
  | sbQuant  -- SB.QUANT, R337
  | qgSlice  -- QG.SLICE, R323
  /-- SAMPLE, R350: one complex sample. `i` and `q` are the integers of R112 and R120; the
  encoding admits -32768 to 32767 for each (`Instr.WellFormed`). -/
  | sample (i q : Int)
deriving DecidableEq, Repr

end Sys2Proof
end

