-- ==== Sys2Proof/WellFormed.lean ====
section
/-! DEFINITION. Which instructions the encodings admit (30_encoding.md R110, R112, R120). -/

namespace Sys2Proof

/-- An integer that an i16 field holds: -32768 to 32767 (R15, R112). -/
abbrev FitsI16 (n : Int) : Prop := -32768 ≤ n ∧ n ≤ 32767

/-- The operand checks: both parts of a sample are i16 values (R112, R120). A command carries no
operand in its word, so every command is well-formed. -/
abbrev Instr.WellFormed (i : Instr) : Prop :=
  match i with
  | .sample i q => FitsI16 i ∧ FitsI16 q
  | _ => True

end Sys2Proof
end

