-- ==== Sys2Proof/Decode.lean ====
section
/-! DEFINITION. Decoding and encoding of the two 32-bit formats (30_encoding.md R110 to R116).
The register written, not the word, selects the format (R111). -/

namespace Sys2Proof

/-- The register a word is written to, which selects its format (R111): CMD decodes format C,
SAMPLE_IN decodes format S. -/
inductive Port where
  | cmd
  | sampleIn
deriving DecidableEq, Repr

/-- Why a format-C word is illegal (R115). -/
inductive DecodeError where
  /-- Z, bits [19:0], is not zero. -/
  | reservedBits
  /-- OP is not a value of R113. -/
  | unknownOpcode
  /-- The row of OP does not allow this UNIT. -/
  | illegalUnit
deriving DecidableEq, Repr

/-- One legal command word: OP, UNIT and the instruction (R113). -/
structure CmdRow where
  op : Nat
  unit : Nat
  instr : Instr
deriving DecidableEq, Repr

/-- The rows of R113: control commands. -/
def controlRows : List CmdRow := [
  ⟨0x00, 0, .nop⟩,
  ⟨0x01, 0, .apply⟩,
  ⟨0x02, 0, .reset⟩,
  ⟨0x03, 0, .evFlush⟩]

/-- The rows of R113: oscillator commands. -/
def ncoRows : List CmdRow := [
  ⟨0x10, 0, .ncoSetfreqMix⟩,
  ⟨0x10, 1, .ncoSetfreqTim⟩,
  ⟨0x10, 2, .ncoSetfreqCar⟩,
  ⟨0x11, 0, .ncoSetphaseMix⟩,
  ⟨0x11, 1, .ncoSetphaseTim⟩,
  ⟨0x11, 2, .ncoSetphaseCar⟩,
  ⟨0x12, 0, .ncoValueMix⟩,
  ⟨0x12, 1, .ncoValueTim⟩,
  ⟨0x12, 2, .ncoValueCar⟩,
  ⟨0x13, 0, .ncoAdvanceMix⟩,
  ⟨0x13, 1, .ncoAdvanceTim⟩,
  ⟨0x13, 2, .ncoAdvanceCar⟩,
  ⟨0x14, 0, .ncoAdvfracMix⟩,
  ⟨0x14, 1, .ncoAdvfracTim⟩,
  ⟨0x14, 2, .ncoAdvfracCar⟩,
  ⟨0x15, 0, .ncoSetpointMix⟩,
  ⟨0x15, 1, .ncoSetpointTim⟩,
  ⟨0x15, 2, .ncoSetpointCar⟩,
  ⟨0x16, 0, .ncoPassedMix⟩,
  ⟨0x16, 1, .ncoPassedTim⟩,
  ⟨0x16, 2, .ncoPassedCar⟩]

/-- The rows of R113: filter, quantizer and slicer commands. -/
def unitRows : List CmdRow := [
  ⟨0x20, 0, .dlPushDlTim⟩,
  ⟨0x20, 1, .dlPushDlSym⟩,
  ⟨0x21, 0, .mfPush⟩,
  ⟨0x22, 0, .emaPushBtS⟩,
  ⟨0x22, 1, .emaPushBtL⟩,
  ⟨0x22, 2, .emaPushQgMse⟩,
  ⟨0x22, 3, .emaPushTed⟩,
  ⟨0x23, 0, .resPush⟩,
  ⟨0x24, 0, .agcPush⟩,
  ⟨0x25, 0, .sbQuant⟩,
  ⟨0x26, 0, .qgSlice⟩]

/-- The opcode map of format C, R113: the 36 legal command words. -/
def cmdRows : List CmdRow := controlRows ++ ncoRows ++ unitRows

/-- OP, bits [31:24] of a format-C word (R110). -/
def fieldOp (w : Word) : Nat := w.toNat / 2 ^ 24

/-- UNIT, bits [23:20], zero-extended (R110, R112). -/
def fieldUnit (w : Word) : Nat := w.toNat / 2 ^ 20 % 16

/-- Z, bits [19:0] (R110). -/
def fieldZ (w : Word) : Nat := w.toNat % 2 ^ 20

/-- Format C: a word is legal exactly when Z = 0, OP is in the map and its row allows UNIT
(R114); every other word is refused by name (R115). -/
def decodeCmd (w : Word) : Except DecodeError Instr :=
  if fieldZ w ≠ 0 then .error .reservedBits
  else if cmdRows.all fun r => r.op != fieldOp w then .error .unknownOpcode
  else match cmdRows.find? fun r => r.op == fieldOp w && r.unit == fieldUnit w with
    | some r => .ok r.instr
    | none => .error .illegalUnit

/-- Format S: I = sext(w[15:0]), Q = sext(w[31:16]); every word is legal (R110, R112). -/
def decodeSample (w : Word) : Instr :=
  .sample (w.extractLsb' 0 16).toInt (w.extractLsb' 16 16).toInt

/-- The decoder: the port's format applied to the word (R111). -/
def decode (p : Port) (w : Word) : Except DecodeError Instr :=
  match p with
  | .cmd => decodeCmd w
  | .sampleIn => .ok (decodeSample w)

/-- The format-C word of an opcode and a unit, with Z = 0 (R110, R120). -/
def cmdWord (op unit : Nat) : Word := BitVec.ofNat 32 (op * 2 ^ 24 + unit * 2 ^ 20)

/-- The format-S word of a sample: Q in bits [31:16], I in bits [15:0], each in two's
complement (R110, R120). -/
def sampleWord (i q : Int) : Word := BitVec.ofInt 16 q ++ BitVec.ofInt 16 i

/-- The word an instruction is encoded as (R113, R120, R121). -/
def encodeWord (i : Instr) : Word :=
  match i with
  | .nop => cmdWord 0x00 0
  | .apply => cmdWord 0x01 0
  | .reset => cmdWord 0x02 0
  | .evFlush => cmdWord 0x03 0
  | .ncoSetfreqMix => cmdWord 0x10 0
  | .ncoSetfreqTim => cmdWord 0x10 1
  | .ncoSetfreqCar => cmdWord 0x10 2
  | .ncoSetphaseMix => cmdWord 0x11 0
  | .ncoSetphaseTim => cmdWord 0x11 1
  | .ncoSetphaseCar => cmdWord 0x11 2
  | .ncoValueMix => cmdWord 0x12 0
  | .ncoValueTim => cmdWord 0x12 1
  | .ncoValueCar => cmdWord 0x12 2
  | .ncoAdvanceMix => cmdWord 0x13 0
  | .ncoAdvanceTim => cmdWord 0x13 1
  | .ncoAdvanceCar => cmdWord 0x13 2
  | .ncoAdvfracMix => cmdWord 0x14 0
  | .ncoAdvfracTim => cmdWord 0x14 1
  | .ncoAdvfracCar => cmdWord 0x14 2
  | .ncoSetpointMix => cmdWord 0x15 0
  | .ncoSetpointTim => cmdWord 0x15 1
  | .ncoSetpointCar => cmdWord 0x15 2
  | .ncoPassedMix => cmdWord 0x16 0
  | .ncoPassedTim => cmdWord 0x16 1
  | .ncoPassedCar => cmdWord 0x16 2
  | .dlPushDlTim => cmdWord 0x20 0
  | .dlPushDlSym => cmdWord 0x20 1
  | .mfPush => cmdWord 0x21 0
  | .emaPushBtS => cmdWord 0x22 0
  | .emaPushBtL => cmdWord 0x22 1
  | .emaPushQgMse => cmdWord 0x22 2
  | .emaPushTed => cmdWord 0x22 3
  | .resPush => cmdWord 0x23 0
  | .agcPush => cmdWord 0x24 0
  | .sbQuant => cmdWord 0x25 0
  | .qgSlice => cmdWord 0x26 0
  | .sample i q => sampleWord i q

/-- The register an instruction is written to (R111). -/
def encodePort (i : Instr) : Port :=
  match i with
  | .sample _ _ => .sampleIn
  | _ => .cmd

/-- The encoder: the port and the word (R110, R111). -/
def encode (i : Instr) : Port × Word := (encodePort i, encodeWord i)

/-- The format the opcode table's bits stand for: every command row fixes all 32 bits, and the SAMPLE
row, whose mask is 0, is the one row to which the table gives fewer (log 17). -/
def tablePort (nbits : Nat) : Port := if nbits < 32 then .sampleIn else .cmd

/-- The instruction the decoder reads from the word `w` of an opcode-table row with `nbits` bits;
bits at and above `nbits` are zero (log 17). -/
def decodeTableWord (nbits w : Nat) : Option Instr :=
  (decode (tablePort nbits) (BitVec.ofNat 32 (w % 2 ^ nbits))).toOption

end Sys2Proof
end

