-- ==== Sys2Proof/Config.lean ====
section
/-! DEFINITION. What an implementation fixes (00_scope.md R11, R12) and what the spec leaves
open (R17, R25; 92_eei_decisions.md, OPEN parameters): the configuration record, the configuration
functions and the free values. An `opaque` constant has no body, so no proof can rest on what it is. -/

namespace Sys2Proof

/-- The parameters of R11, one field each. Reals are binary64; counts and exponents are naturals.
Every definition that reads a parameter takes such a record as its argument `cfg`, whose default is this
hardware's record, `params` in Machine/Params.lean. -/
structure Params where
  /-- SPS_MAX, largest samples per symbol after clamping (R371) -/
  spsMax : F64
  /-- FFT_POW_MIN, FFT_POW_MAX (R371) -/
  fftPowMin : Nat
  fftPowMax : Nat
  /-- AGC_T, AGC_M0, AGC_FLOOR, AGC_CEIL (R204, R205) -/
  agcT : F64
  agcM0 : F64
  agcFloor : F64
  agcCeil : F64
  /-- RES_R, resonator pole radius (R215) -/
  resR : F64
  /-- TIM_ALPHA, TIM_KS, TIM_KE, TIM_RAMP_SYMS, TIM_POINT (R291 to R293) -/
  timAlpha : F64
  timKs : F64
  timKe : F64
  timRampSyms : Nat
  timPoint : F64
  /-- CAR_KP, CAR_KF, CAR_FSTART_SYMS (R301, R302) -/
  carKp : F64
  carKf : F64
  carFstartSyms : Nat
  /-- QG_SCALE, QG_ALPHA, QG_MSE_NOLOCK, QG_CD_SYMS, QG_DELAY_SYMS, QG_REPORT_T (R321 to R331, R372) -/
  qgScale : F64
  qgAlpha : F64
  qgMseNolock : F64
  qgCdSyms : F64
  qgDelaySyms : F64
  qgReportT : F64
  /-- SB_OFFSET, SB_GAIN, SB_BATCH, SB_SENTINEL (R336 to R339) -/
  sbOffset : F64
  sbGain : F64
  sbBatch : Nat
  sbSentinel : BitVec 16
  /-- BT_S_SYMS, BT_L_SYMS, BT_CEIL, BT_THR, BT_REARM (R241, R242) -/
  btSSyms : F64
  btLSyms : F64
  btCeil : F64
  btThr : F64
  btRearm : F64
  /-- ACQ_FFT_POW, ACQ_BASE_SYMS, ACQ_TOP_SYMS, ACQ_SPACING_FB, ACQ_SEARCH_MULT, ACQ_BASE_THR,
  ACQ_TOL, ACQ_DEAD_SYMS (R244 to R250) -/
  acqFftPow : Nat
  acqBaseSyms : F64
  acqTopSyms : F64
  acqSpacingFb : F64
  acqSearchMult : F64
  acqBaseThr : F64
  acqTol : F64
  acqDeadSyms : F64
  /-- CONT_ALPHA, CONT_SETTLE (R264, R267) -/
  contAlpha : F64
  contSettle : Nat
  /-- EV_DEPTH, EV_RESERVE (R67, R351) -/
  evDepth : Nat
  evReserve : Nat
  /-- BLOCK_BASE, the bus address of register offset 0, a multiple of 4096 (R80) -/
  blockBase : Nat
deriving DecidableEq, Repr

/-- BLOCK_BASE / 4096 on this platform: R11 leaves BLOCK_BASE open, and R80 asks for a multiple of 4096 (log 26). -/
opaque Config.blockPage : Nat

/-- The free functions behind `sin`, `cos`, `tanh`, `atan2`, `log10`, `pow` and `exp` (R17). The machine
reads them through Machine/ConfigFns.lean, which imposes the bounds P1 and P2 (log 5). `exp` is
named by R17 and used by no rule. -/
opaque Config.sinFree : F64 → F64
opaque Config.cosFree : F64 → F64
opaque Config.tanhFree : F64 → F64
opaque Config.atan2Free : F64 → F64 → F64
opaque Config.log10Free : F64 → F64
opaque Config.powFree : F64 → F64 → F64
opaque Config.exp : F64 → F64

/-- `Config.dft N x k` is output k of `DFT_N` on the list x of N values, and `Config.idft N x n` output
n of `IDFT_N` (R25, D43). OPEN: the reference algorithm stands in Machine/ReferenceDft.lean (log 7). -/
opaque Config.dft : Nat → List Cplx → Nat → Cplx
opaque Config.idft : Nat → List Cplx → Nat → Cplx

/-- DESIGN CHOICE (log 9): R16 does not say which operand `min` and `max` return when the two compare
equal and differ, that is for +0.0 and -0.0; true picks the first. -/
opaque Config.zeroTie : F64 → F64 → Bool

/-- DESIGN CHOICE (log 10): R20 defines `round` and `rne` on finite arguments only; the integer they
give for a NaN or an infinity is free. -/
opaque Config.roundNonFinite : F64 → Int

/-- DESIGN CHOICE (log 11): R336 states no byte for a soft value that is NaN; the byte is free, one
for each triple (zc, zd, zpp) the value was computed from. -/
opaque Config.quantNaN : Cplx → Cplx → Cplx → BitVec 8

end Sys2Proof
end

