-- ==== Sys2Proof/Machine/Float.lean ====
section
/-! DEFINITION. IEEE 754 binary64 arithmetic on encodings (00_scope.md R16, R20, R21, R26): every
operation is one correctly rounded binary64 operation, nearest with ties to even. A finite value is
`± mant × 2 ^ expo`; results are computed exactly on integers and rounded once, in `roundPack`. -/

namespace Sys2Proof

namespace F64

/-! ### The encoding -/

def sign (x : F64) : Bool := x.bits.msb

/-- The encoding without its sign bit; it orders the magnitudes of all values but NaN. -/
def mag (x : F64) : Nat := x.bits.toNat % 2 ^ 63

def expField (x : F64) : Nat := x.bits.toNat / 2 ^ 52 % 2 ^ 11

def frac (x : F64) : Nat := x.bits.toNat % 2 ^ 52

def isFinite (x : F64) : Bool := x.expField != 2047

def isNaN (x : F64) : Bool := x.expField == 2047 && x.frac != 0

def isInf (x : F64) : Bool := x.expField == 2047 && x.frac == 0

def isZero (x : F64) : Bool := x.mag == 0

/-- The integer significand of a finite value, with the implicit bit of a normal one. -/
def mant (x : F64) : Nat := if x.expField = 0 then x.frac else x.frac + 2 ^ 52

/-- The exponent of the significand's unit. -/
def expo (x : F64) : Int := (if x.expField = 0 then 1 else (x.expField : Int)) - 1075

/-- The encoding with sign `s` and magnitude bits `m`. -/
def pack (s : Bool) (m : Nat) : F64 := ⟨BitVec.ofNat 64 ((if s then 2 ^ 63 else 0) + m)⟩

def lo32 (x : F64) : Word := x.bits.extractLsb' 0 32

def hi32 (x : F64) : Word := x.bits.extractLsb' 32 32

/-! ### Constants (R11, R18) -/

def zero : F64 := ⟨0⟩
def negZero : F64 := ⟨0x8000000000000000⟩
def half : F64 := ⟨0x3FE0000000000000⟩
def one : F64 := ⟨0x3FF0000000000000⟩
def negOne : F64 := ⟨0xBFF0000000000000⟩
def two : F64 := ⟨0x4000000000000000⟩
def four : F64 := ⟨0x4010000000000000⟩
def ten : F64 := ⟨0x4024000000000000⟩
def inf : F64 := ⟨0x7FF0000000000000⟩
/-- The result of an invalid operation. Its payload and sign never reach state (log 8). -/
def nan : F64 := ⟨0x7FF8000000000000⟩
/-- 4294967296.0 = 2^32 -/
def two32 : F64 := ⟨0x41F0000000000000⟩
/-- π, the binary64 value nearest to it (R18). -/
def pi : F64 := ⟨0x400921FB54442D18⟩
/-- TWO_PI = 2.0 × π (R18). -/
def twoPi : F64 := ⟨0x401921FB54442D18⟩
/-- HALF_PI = π / 2.0 (R18). -/
def halfPi : F64 := ⟨0x3FF921FB54442D18⟩

/-! ### Rounding -/

/-- `m / 2 ^ d` rounded to the nearest integer, ties to even; `sticky` says that the exact value is
above `m` by less than one unit of `m`. -/
def roundShift (m d : Nat) (sticky : Bool) : Nat :=
  if d = 0 then m
  else
    let q := m / 2 ^ d
    let r := m % 2 ^ d
    let h := 2 ^ (d - 1)
    if h < r ∨ (r = h ∧ (sticky = true ∨ q % 2 = 1)) then q + 1 else q

/-- The exponent of the last place that binary64 keeps of `m × 2 ^ e`. -/
def lastPlace (m : Nat) (e : Int) : Int := max (e + (Nat.log2 m : Int) - 52) (-1074)

/-- The binary64 value nearest to `± m × 2 ^ e`, ties to even, overflow to infinity (R16). A
rounding up to the next power of two carries into the exponent field by the addition itself. -/
def roundPack (s : Bool) (m : Nat) (e : Int) (sticky : Bool) : F64 :=
  if m = 0 then pack s 0
  else
    let q := lastPlace m e
    let r := if q ≤ e then m * 2 ^ (e - q).toNat else roundShift m (q - e).toNat sticky
    let b := (q + 1074).toNat * 2 ^ 52 + r
    pack s (if b < 2047 * 2 ^ 52 then b else 2047 * 2 ^ 52)

/-- An integer as a real, converted exactly where binary64 holds it. -/
def ofInt (n : Int) : F64 := roundPack (decide (n < 0)) n.natAbs 0 false

def ofNat (n : Nat) : F64 := ofInt n

/-! ### Arithmetic -/

def neg (x : F64) : F64 := ⟨x.bits ^^^ 0x8000000000000000⟩

/-- `abs` clears the sign bit (R16). -/
def abs (x : F64) : F64 := ⟨x.bits &&& 0x7FFFFFFFFFFFFFFF⟩

/-- The signed significand at the exponent `e`, which is at most the value's own. -/
def signedAt (x : F64) (e : Int) : Int :=
  let m : Int := (x.mant * 2 ^ (x.expo - e).toNat : Nat)
  if x.sign then -m else m

def add (x y : F64) : F64 :=
  if x.isNaN || y.isNaN then nan
  else if x.isInf then (if y.isInf && x.sign != y.sign then nan else x)
  else if y.isInf then y
  else
    let e := min x.expo y.expo
    let n := x.signedAt e + y.signedAt e
    if n = 0 then pack (x.sign && y.sign) 0
    else roundPack (decide (n < 0)) n.natAbs e false

def sub (x y : F64) : F64 := add x (neg y)

def mul (x y : F64) : F64 :=
  let s := x.sign != y.sign
  if x.isNaN || y.isNaN then nan
  else if x.isInf || y.isInf then (if x.isZero || y.isZero then nan else pack s (2047 * 2 ^ 52))
  else roundPack s (x.mant * y.mant) (x.expo + y.expo) false

/-- The quotient is taken to at least 67 bits, so the remainder only decides ties. -/
def div (x y : F64) : F64 :=
  let s := x.sign != y.sign
  if x.isNaN || y.isNaN then nan
  else if x.isInf then (if y.isInf then nan else pack s (2047 * 2 ^ 52))
  else if y.isInf then pack s 0
  else if y.isZero then (if x.isZero then nan else pack s (2047 * 2 ^ 52))
  else
    let n := x.mant * 2 ^ 120
    roundPack s (n / y.mant) (x.expo - y.expo - 120) (n % y.mant != 0)

/-- The integer square root below `2 ^ k`, bit by bit from the top; `r` holds the bits found. -/
def isqrt (n : Nat) : Nat → Nat → Nat
  | 0, r => r
  | k + 1, r => if (r + 2 ^ k) * (r + 2 ^ k) ≤ n then isqrt n k (r + 2 ^ k) else isqrt n k r

/-- The correctly rounded square root (R16, R17). The root is taken to at least 55 bits. -/
def sqrt (x : F64) : F64 :=
  if x.isNaN then nan
  else if x.isZero then x
  else if x.sign then nan
  else if x.isInf then x
  else
    let d : Nat := if x.expo % 2 = 0 then 110 else 111
    let n := x.mant * 2 ^ d
    let r := isqrt n 83 0
    roundPack false r ((x.expo - d) / 2) (r * r != n)

/-! ### Comparison: the IEEE orderings, false on NaN, and -0.0 = +0.0 (R16) -/

/-- Orders the values that are not NaN. -/
def key (x : F64) : Int := if x.sign then -(x.mag : Int) else x.mag

def lt (x y : F64) : Bool := !x.isNaN && !y.isNaN && decide (x.key < y.key)

def le (x y : F64) : Bool := !x.isNaN && !y.isNaN && decide (x.key ≤ y.key)

def eq (x y : F64) : Bool := !x.isNaN && !y.isNaN && decide (x.key = y.key)

/-- `min`: NaN when either argument is NaN (R16); of two zeros of opposite sign a free one (log 9). -/
def fmin (x y : F64) : F64 :=
  if x.isNaN || y.isNaN then nan
  else if lt x y then x
  else if lt y x then y
  else if x = y then x
  else if Config.zeroTie x y then x else y

/-- `max`, as `fmin`. -/
def fmax (x y : F64) : F64 :=
  if x.isNaN || y.isNaN then nan
  else if lt y x then x
  else if lt x y then y
  else if x = y then x
  else if Config.zeroTie x y then x else y

/-- `clamp(v, lo, hi)` = min(max(v, lo), hi) (R26). -/
def clamp (v lo hi : F64) : F64 := fmin (fmax v lo) hi

/-- `sgn(v)`: +1.0 if v ≥ 0.0, else -1.0 (R26). -/
def sgn (v : F64) : F64 := if le zero v then one else negOne

/-! ### Rounding to an integer (R20) -/

/-- `signed s n` is n or -n. -/
def signed (s : Bool) (n : Nat) : Int := if s then -(n : Int) else n

/-- `rne(x)`: the nearest integer, ties to even (R20); free on a non-finite value (log 10). -/
def rne (x : F64) : Int :=
  if x.isFinite then
    signed x.sign (if 0 ≤ x.expo then x.mant * 2 ^ x.expo.toNat else roundShift x.mant (-x.expo).toNat false)
  else Config.roundNonFinite x

/-- `round(x)`: the nearest integer, ties away from zero (R20); free on a non-finite value (log 10). -/
def round (x : F64) : Int :=
  if x.isFinite then
    signed x.sign (if 0 ≤ x.expo then x.mant * 2 ^ x.expo.toNat
      else (x.mant + 2 ^ ((-x.expo).toNat - 1)) / 2 ^ (-x.expo).toNat)
  else Config.roundNonFinite x

/-- `floor(x)`: the largest integer not above x (R20; no rule of the datapath uses it). -/
def floor (x : F64) : Int :=
  if x.isFinite then
    if 0 ≤ x.expo then signed x.sign (x.mant * 2 ^ x.expo.toNat)
    else Int.fdiv (signed x.sign x.mant) (2 ^ (-x.expo).toNat)
  else Config.roundNonFinite x

/-- `EMA(y, α, x)` = y + α × (x − y) (R26). -/
def ema (y alpha x : F64) : F64 := add y (mul alpha (sub x y))

end F64

namespace Cplx

/-! ### Complex values, lane by lane in the orders of R21 -/

def zero : Cplx := ⟨F64.zero, F64.zero⟩

def add (a b : Cplx) : Cplx := ⟨a.re.add b.re, a.im.add b.im⟩

def sub (a b : Cplx) : Cplx := ⟨a.re.sub b.re, a.im.sub b.im⟩

def mul (a b : Cplx) : Cplx :=
  ⟨(a.re.mul b.re).sub (a.im.mul b.im), (a.re.mul b.im).add (a.im.mul b.re)⟩

/-- a × conj(b) -/
def mulconj (a b : Cplx) : Cplx :=
  ⟨(a.re.mul b.re).add (a.im.mul b.im), (a.im.mul b.re).sub (a.re.mul b.im)⟩

def conj (a : Cplx) : Cplx := ⟨a.re, a.im.neg⟩

def sq (a : Cplx) : Cplx := mul a a

/-- `k · a` for a real k -/
def smul (k : F64) (a : Cplx) : Cplx := ⟨k.mul a.re, k.mul a.im⟩

def pow2 (a : Cplx) : F64 := (a.re.mul a.re).add (a.im.mul a.im)

def cabs (a : Cplx) : F64 := (pow2 a).sqrt

def isFinite (a : Cplx) : Bool := a.re.isFinite && a.im.isFinite

end Cplx

end Sys2Proof
end

