-- ==== Sys2Proof/Machine/Params.lean ====
section
/-! DEFINITION. This hardware's parameter values: the defaults of 00_scope.md R11, and the
admissibility of a configuration (R12). -/

namespace Sys2Proof

/-- The default value of every parameter of R11, "the default value this hardware takes" (log 1); BLOCK_BASE has none
and is free (log 26). -/
def params : Params where
  spsMax := ⟨0x4060000000000000⟩        -- 128.0
  fftPowMin := 4
  fftPowMax := 16
  agcT := ⟨0x3F947AE147AE147B⟩          -- 0.02
  agcM0 := ⟨0x3FF0000000000000⟩         -- 1.0
  agcFloor := ⟨0x3F1A36E2EB1C432D⟩      -- 1.0e-4
  agcCeil := ⟨0x4010000000000000⟩       -- 4.0
  resR := ⟨0x3FEFD70A3D70A3D7⟩          -- 0.995
  timAlpha := ⟨0x3F947AE147AE147B⟩      -- 0.02
  timKs := ⟨0x3FAEB851EB851EB8⟩         -- 0.06
  timKe := ⟨0x3FA47AE147AE147B⟩         -- 0.04
  timRampSyms := 64
  timPoint := ⟨0x3FD999999999999A⟩      -- 0.40
  carKp := ⟨0x3FB999999999999A⟩         -- 0.1
  carKf := ⟨0x3F2A36E2EB1C432D⟩         -- 0.0002
  carFstartSyms := 32
  qgScale := ⟨0x3FE0000000000000⟩       -- 0.5
  qgAlpha := ⟨0x3FA999999999999A⟩       -- 0.05
  qgMseNolock := ⟨0x3FF0000000000000⟩   -- 1.0
  qgCdSyms := ⟨0x4050000000000000⟩      -- 64
  qgDelaySyms := ⟨0x4040000000000000⟩   -- 32
  qgReportT := ⟨0x3FB999999999999A⟩     -- 0.1
  sbOffset := ⟨0x405FE00000000000⟩      -- 127.5
  sbGain := ⟨0x407FE00000000000⟩        -- 510.0
  sbBatch := 12
  sbSentinel := 0x100
  btSSyms := ⟨0x4000000000000000⟩       -- 2.0
  btLSyms := ⟨0x4040000000000000⟩       -- 32.0
  btCeil := ⟨0x4010000000000000⟩        -- 4.0
  btThr := ⟨0x3FE0000000000000⟩         -- 0.5
  btRearm := ⟨0x3FB999999999999A⟩       -- 0.1
  acqFftPow := 12
  acqBaseSyms := ⟨0x4030000000000000⟩   -- 16.0
  acqTopSyms := ⟨0x4030000000000000⟩    -- 16.0
  acqSpacingFb := ⟨0x3FD0000000000000⟩  -- 0.25
  acqSearchMult := ⟨0x4000000000000000⟩ -- 2.0
  acqBaseThr := ⟨0x4069000000000000⟩    -- 200.0
  acqTol := ⟨0x3FA999999999999A⟩        -- 0.05
  acqDeadSyms := ⟨0x4059000000000000⟩   -- 100.0
  contAlpha := ⟨0x3FD3333333333333⟩     -- 0.3
  contSettle := 4
  evDepth := 64
  evReserve := 4
  blockBase := 0x1000 * Config.blockPage  -- OPEN: any multiple of 4096

/-- BLOCK_BASE is a multiple of 4096 (R80). -/
def Params.placed (p : Params) : Prop := p.blockBase % 0x1000 = 0

/-- The real parameters, each of which must be finite (R12). -/
def Params.reals (p : Params) : List F64 :=
  [p.spsMax, p.agcT, p.agcM0, p.agcFloor, p.agcCeil, p.resR, p.timAlpha, p.timKs, p.timKe,
    p.timPoint, p.carKp, p.carKf, p.qgScale, p.qgAlpha, p.qgMseNolock, p.qgCdSyms, p.qgDelaySyms,
    p.qgReportT, p.sbOffset, p.sbGain, p.btSSyms, p.btLSyms, p.btCeil, p.btThr, p.btRearm,
    p.acqBaseSyms, p.acqTopSyms, p.acqSpacingFb, p.acqSearchMult, p.acqBaseThr, p.acqTol,
    p.acqDeadSyms, p.contAlpha]

/-- In (0, 1]. -/
def F64.isWeight (x : F64) : Bool := F64.lt F64.zero x && F64.le x F64.one

/-- An admissible configuration (R12). The integer parameters are naturals, so non-negative. -/
def Params.admissible (p : Params) : Bool :=
  p.reals.all F64.isFinite &&
  [p.agcT, p.btSSyms, p.btLSyms, p.acqBaseSyms, p.acqTopSyms, p.acqSpacingFb, p.acqSearchMult,
    p.qgScale, p.qgReportT, p.agcFloor, p.agcCeil, p.agcM0].all (F64.lt F64.zero) &&
  F64.lt F64.zero p.resR && F64.lt p.resR F64.one &&
  p.timAlpha.isWeight && p.qgAlpha.isWeight && p.contAlpha.isWeight &&
  F64.le F64.one p.spsMax && F64.le p.spsMax (F64.ofNat 1024) &&
  decide (1 ≤ p.fftPowMin) && decide (p.fftPowMin ≤ p.fftPowMax) && decide (p.fftPowMax ≤ 20) &&
  decide (1 ≤ p.acqFftPow) && decide (p.acqFftPow ≤ 20) &&
  decide (4 ≤ p.evReserve) && decide (p.evReserve < p.evDepth)

end Sys2Proof
end

