-- ==== Sys2Proof/Machine/ConfigFns.lean ====
section
/-! DEFINITION. The configuration functions as the machine reads them (00_scope.md R17): the free
functions of Config.lean held to the ranges of P1 and P2, and to the ranges that P3 gives for
`log10` and `pow`. A function that has these properties is left as it is; for any other the value is
replaced by one inside the range. So the machines modelled are those with P1's and P2's ranges and no
function is chosen (logs 5, 6). Also the oscillator output `cis` (R24) and phase words (R22, R23). -/

namespace Sys2Proof

namespace Config

open F64

/-- `r` where it lies in [lo, hi], else `other`, which does. -/
def within (lo hi other r : F64) : F64 := if F64.le lo r && F64.le r hi then r else other

/-- P1: sin is in [-1, 1]. -/
def sin (x : F64) : F64 := within negOne one zero (sinFree x)

/-- P1: cos is in [-1, 1]. -/
def cos (x : F64) : F64 := within negOne one zero (cosFree x)

/-- P1: tanh is in [-1, 1] and odd. That it is non-decreasing is the named property
`TanhMonotone` of Safety.lean. -/
def tanh (x : F64) : F64 :=
  let t := within negOne one zero (tanhFree x.abs)
  if x.sign then t.neg else t

/-- P2: atan2(y, x) is in [-π, π]. -/
def atan2 (y x : F64) : F64 := within pi.neg pi zero (atan2Free y x)

/-- P3 puts log10 of a positive finite binary64 value in [-324, 309]. -/
def log10 (x : F64) : F64 := within ⟨0xC074400000000000⟩ ⟨0x4073500000000000⟩ zero (log10Free x)

/-- P3 puts pow(x, y) in [0, 1] for 0 < x ≤ 1 and y ≥ 0, the only arguments a rule gives it (R204). -/
def pow (x y : F64) : F64 :=
  if F64.lt zero x && F64.le x one && F64.le zero y then within zero one zero (powFree x y)
  else powFree x y

end Config

/-- `cycles(p)` = p / 4294967296.0 (R22). -/
def cycles (p : Word) : F64 := (F64.ofNat p.toNat).div F64.two32

/-- `cis(p)`: exact at the four quarter-cycle words, (cos, sin) elsewhere (R24). -/
def cis (p : Word) : Cplx :=
  if p = 0 then ⟨F64.one, F64.zero⟩
  else if p = 0x40000000 then ⟨F64.zero, F64.one⟩
  else if p = 0x80000000 then ⟨F64.negOne, F64.zero⟩
  else if p = 0xC0000000 then ⟨F64.zero, F64.negOne⟩
  else
    let th := F64.twoPi.mul (cycles p)
    ⟨Config.cos th, Config.sin th⟩

/-- rne(x × 2^32) mod 2^32, the word of `phaseword(x)` where it does not fault (R23). -/
def phaseBits (x : F64) : Word := BitVec.ofInt 32 (x.mul F64.two32).rne

/-- `phaseword(x)` faults on a NaN, an infinity, or an overflow of x × 2^32 (R23). -/
def phaseFaults (x : F64) : Bool := !x.isFinite || !(x.mul F64.two32).isFinite

/-- `shift(X)[i]` = X[(i + N/2) mod N]: DC at index N/2 (R25). -/
def shifted (n : Nat) (x : Nat → Cplx) (i : Nat) : Cplx := x ((i + n / 2) % n)

end Sys2Proof
end

