-- ==== Sys2Proof/Machine/Units.lean ====
section
/-! DEFINITION. The state of each unit of the block (10_state.md R57 to R65) as plain data, the
settings (R42 to R44), and the fault codes (60_exceptions.md R400). -/

namespace Sys2Proof.Machine

/-- The three oscillators: MIX = 0, TIM = 1, CAR = 2 (R50, R150). -/
inductive OscId where
  | mix
  | tim
  | car
deriving DecidableEq, Repr

/-- The averagers of EMA.PUSH: BT_S = 0, BT_L = 1, QG_MSE = 2, TED = 3 (R196). -/
inductive EmaId where
  | btS
  | btL
  | qgMse
  | ted
deriving DecidableEq, Repr

/-- The fault codes of R400 (code 0 is "no fault"). -/
inductive FaultCode where
  | illegalCmd
  | badArg
  | badSettings
  | bus
  | zeroDiv
deriving DecidableEq, Repr

/-- The number of a fault code, R400. -/
def FaultCode.code : FaultCode → Nat
  | .illegalCmd => 1
  | .badArg => 2
  | .badSettings => 3
  | .bus => 4
  | .zeroDiv => 5

/-- A computation that may raise a fault (R401): the first fault ends it (R405). -/
abbrev Res := Except FaultCode

/-- `phaseword(x)` as a step of a computation: BAD_ARG where it faults (R23). -/
def phaseword (x : F64) : Res Word :=
  if phaseFaults x then .error .badArg else .ok (phaseBits x)

/-- The pending settings registers (R42, R43). -/
structure Settings where
  fs : F64
  fb : F64
  freqCenter : F64
  lockBw : F64
  sigThresh : F64
  fftPower : Word
deriving DecidableEq, Repr

/-- The active, clamped settings and A_CTRL (R37, R44). -/
structure Active where
  fs : F64
  fb : F64
  fc : F64
  lbw : F64
  thr : F64
  fftp : Nat
  ctrl : BitVec 3
deriving DecidableEq, Repr

/-- A_CTRL bit 0: continuous estimation (R36, R37). -/
def Active.modeCont (a : Active) : Bool := a.ctrl.getLsbD 0

/-- A_CTRL bit 1: OQPSK; informational, no rule of the datapath reads it (R4, R36). -/
def Active.modOqpsk (a : Active) : Bool := a.ctrl.getLsbD 1

/-- A_CTRL bit 2: window instead of zeroing (R36, R262). -/
def Active.contWindow (a : Active) : Bool := a.ctrl.getLsbD 2

/-- An oscillator (R57). -/
structure Osc where
  phase : Word
  ftw : Word
  point : Word
  armed : Bool
  latch : Bool
deriving DecidableEq, Repr

/-- The AGC (R58). -/
structure Agc where
  m : F64
  alpha : F64
deriving DecidableEq, Repr

/-- The matched filter: taps and the two histories, index 0 the newest (R59). -/
structure MatchedFilter where
  taps : List F64
  hr : List F64
  hi : List F64
deriving DecidableEq, Repr

/-- A delay line: its cells and its pointer; its length is the number of cells (R60, R190). -/
structure DelayLine (α : Type) where
  buf : List α
  ptr : Nat
deriving DecidableEq, Repr

/-- The resonator (R61). -/
structure Resonator where
  a1 : F64
  a2 : F64
  g : F64
  s1 : F64
  s2 : F64
deriving DecidableEq, Repr

/-- An exponential moving average (R62, R195). -/
structure Ema where
  alpha : F64
  y : F64
deriving DecidableEq, Repr

/-- STATUS.ACQST (R38): `verifying` exists only inside a sample step (R249). -/
inductive AcqState where
  | rejected
  | filling
  | verifying
  | locked
deriving DecidableEq, Repr

/-- The field value of ACQST, R38. -/
def AcqState.code : AcqState → Nat
  | .rejected => 0
  | .filling => 1
  | .verifying => 2
  | .locked => 3

/-- The burst acquisition unit (R63). -/
structure Burst where
  bt1 : F64
  bt2 : F64
  armed : Bool
  buf : List Cplx
  ptr : Nat
  st : AcqState
  lb : Nat
  lt : Nat
  nacq : Nat
  dead : Nat
deriving DecidableEq, Repr

/-- The continuous estimator (R64). -/
structure Cont where
  frame : List Cplx
  ptr : Nat
  mags : List F64
  settle : Word
  nc : Nat
deriving DecidableEq, Repr

/-- STATUS.QGST (R38, R320). The source's `Lost` is transient and never held. -/
inductive GateState where
  | noSig
  | acq
  | lock
deriving DecidableEq, Repr

/-- The field value of QGST, R38. -/
def GateState.code : GateState → Nat
  | .noSig => 0
  | .acq => 1
  | .lock => 2

/-- The quality gate and the soft-bit emitter (R65). -/
structure Gate where
  st : GateState
  cd : Word
  acqEl : Word
  sinceLock : Word
  symSince : Word
  zpp : Cplx
  sb : List (BitVec 16)
  carrier : F64
  qgCd : Nat
  qgDelay : Nat
  report : Nat
deriving DecidableEq, Repr

/-- Everything APPLY rebuilds: the derived registers and the internal state (R45 to R49, R57 to
R66, R372). -/
structure Datapath where
  sps : F64
  nmf : Nat
  dsym : Nat
  mf : MatchedFilter
  dlSym : DelayLine Cplx
  dlTim : DelayLine F64
  agc : Agc
  res : Resonator
  btS : Ema
  btL : Ema
  ted : Ema
  qgMse : Ema
  mix : Osc
  tim : Osc
  car : Osc
  timRamp : Nat
  carFstart : Nat
  acq : Burst
  cont : Cont
  freqEst : F64
  gate : Gate
  sampleCnt : DWord
  symbolCnt : DWord
  ebno : F64
deriving DecidableEq, Repr

end Sys2Proof.Machine
end

