-- ==== Sys2Proof/Machine/Rebuild.lean ====
section
/-! DEFINITION. APPLY's two parts: the check and clamping of the pending settings (46_control.md
R371) and rebuild(), which sets every piece of derived and internal state (R372). -/

namespace Sys2Proof.Machine

open F64

/-- The defaults of the pending settings (70_reset_and_hazards.md R450). -/
def defaultSettings : Settings where
  fs := ⟨0x40E7700000000000⟩          -- 48000.0
  fb := ⟨0x4092C00000000000⟩          -- 1200.0
  freqCenter := ⟨0x409C200000000000⟩  -- 1800.0
  lockBw := ⟨0x408C200000000000⟩      -- 900.0
  sigThresh := ⟨0x3FE0000000000000⟩   -- 0.5
  fftPower := 12

/-- APPLY accepts the settings: every real is finite, FS > 0 and FB > 0; else it faults
BAD_SETTINGS (R371). -/
def settingsLegal (p : Settings) : Bool :=
  p.fs.isFinite && p.fb.isFinite && p.freqCenter.isFinite && p.lockBw.isFinite &&
    p.sigThresh.isFinite && !F64.le p.fs zero && !F64.le p.fb zero

/-- 0.75 -/
def threeQuarters : F64 := ⟨0x3FE8000000000000⟩

/-- FB clamped to [FS / SPS_MAX, FS] (R371). -/
def clampFb (fs fb : F64) (cfg : Params := params) : F64 := fmax (fmin fb fs) (fs.div cfg.spsMax)

/-- FC clamped to [0.75·fb, FS/2 − 0.75·fb], or FS/4 where that range is empty; `fb` is the
clamped one (R371). -/
def clampFc (fs fb fc : F64) : F64 :=
  let lo := threeQuarters.mul fb
  let hi := (fs.div two).sub (threeQuarters.mul fb)
  if F64.le lo hi then fmin (fmax fc lo) hi else fs.div four

/-- FFT_POWER, read as an i32, clamped to [FFT_POW_MIN, FFT_POW_MAX] (R43, R371). -/
def clampFftPower (w : Word) (cfg : Params := params) : Nat :=
  (min (max w.toInt cfg.fftPowMin) cfg.fftPowMax).toNat

/-- The active settings that APPLY derives from the pending ones and CTRL[2:0] (R371). -/
def activeOf (p : Settings) (ctrl : BitVec 4) (cfg : Params := params) : Active :=
  let fb := clampFb p.fs p.fb cfg
  { fs := p.fs
    fb := fb
    fc := clampFc p.fs fb p.freqCenter
    lbw := fmin (fmax p.lockBw zero) p.fs
    thr := fmax p.sigThresh zero
    fftp := clampFftPower p.fftPower cfg
    ctrl := ctrl.extractLsb' 0 3 }

/-- `round(x)` as a count: max(1, round(x)) (R372). -/
def lengthOf (x : F64) : Nat := (max 1 x.round).toNat

/-- `round(x)` of a value that is not negative, as a count (R372). -/
def countOf (x : F64) : Nat := x.round.toNat

/-- The matched-filter taps, h[n] = sin(π × ((n + 0.5) / NMF)) / (2.0 × SPS) (R210). -/
def mfTaps (sps : F64) (nmf : Nat) : List F64 :=
  (List.range nmf).map fun n =>
    (Config.sin (pi.mul (((F64.ofNat n).add half).div (F64.ofNat nmf)))).div (two.mul sps)

/-- agc_alpha = 1.0 − pow(0.01, 1.0 / NAGC), NAGC = max(1, round(AGC_T × FS)) (R204). -/
def agcAlpha (fs : F64) (cfg : Params := params) : F64 :=
  let nagc := lengthOf (cfg.agcT.mul fs)
  one.sub (Config.pow ⟨0x3F847AE147AE147B⟩ (one.div (F64.ofNat nagc)))

/-- The weight of an envelope average over `syms` symbols: 1.0 / max(1.0, syms × SPS) (R62, R372). -/
def btAlpha (syms sps : F64) : F64 := one.div (fmax one (syms.mul sps))

/-- The resonator's coefficients, with its states at zero (R215). -/
def resonatorOf (fs fb : F64) (cfg : Params := params) : Resonator :=
  let w := twoPi.mul (fb.div fs)
  { a1 := (two.mul cfg.resR).mul (Config.cos w)
    a2 := cfg.resR.mul cfg.resR
    g := one.sub cfg.resR
    s1 := zero
    s2 := zero }

/-- A rebuilt oscillator: phase 0, armed, no latch (R372). Its words come from conversions that
cannot fault on admissible settings (R372; log 15). -/
def oscOf (ftw point : Word) : Osc :=
  { phase := 0, ftw := ftw, point := point, armed := true, latch := false }

/-- min(NACQ, max(1, round(syms × SPS))), a segment of the acquisition buffer (R244). -/
def segmentOf (nacq : Nat) (syms sps : F64) : Nat := min nacq (lengthOf (syms.mul sps))

/-- The rebuilt burst acquisition unit (R63, R244, R245, R372). -/
def burstOf (sps : F64) (cfg : Params := params) : Burst :=
  let nacq := 2 ^ cfg.acqFftPow
  let lb := segmentOf nacq cfg.acqBaseSyms sps
  let lt := segmentOf nacq cfg.acqTopSyms sps
  { bt1 := zero
    bt2 := zero
    armed := true
    buf := List.replicate (lb + lt) Cplx.zero
    ptr := 0
    st := .rejected
    lb := lb
    lt := lt
    nacq := nacq
    dead := countOf (cfg.acqDeadSyms.mul sps) }

/-- The rebuilt continuous estimator (R64, R372). -/
def contOf (fftp : Nat) (cfg : Params := params) : Cont :=
  { frame := List.replicate (2 ^ fftp) Cplx.zero
    ptr := 0
    mags := List.replicate (2 ^ fftp) zero
    settle := BitVec.ofNat 32 cfg.contSettle
    nc := 2 ^ fftp }

/-- The rebuilt quality gate and soft-bit emitter (R65, R372). -/
def gateOf (fs fc sps : F64) (cfg : Params := params) : Gate :=
  { st := .noSig
    cd := 0
    acqEl := 0
    sinceLock := 0xFFFFFFFF
    symSince := 0
    zpp := Cplx.zero
    sb := []
    carrier := fc
    qgCd := lengthOf (cfg.qgCdSyms.mul sps)
    qgDelay := countOf (cfg.qgDelaySyms.mul sps)
    report := lengthOf (cfg.qgReportT.mul fs) }

/-- rebuild(): every derived and internal field from the active settings alone (R372). -/
def rebuild (a : Active) (cfg : Params := params) : Datapath :=
  let sps := a.fs.div a.fb
  let nmf := lengthOf (two.mul sps)
  let dsym := lengthOf sps
  { sps := sps
    nmf := nmf
    dsym := dsym
    mf := { taps := mfTaps sps nmf, hr := List.replicate nmf zero, hi := List.replicate nmf zero }
    dlSym := { buf := List.replicate dsym Cplx.zero, ptr := 0 }
    dlTim := { buf := List.replicate nmf zero, ptr := 0 }
    agc := { m := cfg.agcM0, alpha := agcAlpha a.fs cfg }
    res := resonatorOf a.fs a.fb cfg
    btS := { alpha := btAlpha cfg.btSSyms sps, y := zero }
    btL := { alpha := btAlpha cfg.btLSyms sps, y := zero }
    ted := { alpha := cfg.timAlpha, y := zero }
    qgMse := { alpha := cfg.qgAlpha, y := cfg.qgMseNolock }
    mix := oscOf (phaseBits (a.fc.div a.fs)) 0
    tim := oscOf (phaseBits ((a.fb.div two).div a.fs)) (phaseBits cfg.timPoint)
    car := oscOf 0 0
    timRamp := cfg.timRampSyms
    carFstart := cfg.carFstartSyms
    acq := burstOf sps cfg
    cont := contOf a.fftp cfg
    freqEst := zero
    gate := gateOf a.fs a.fc sps cfg
    sampleCnt := 0
    symbolCnt := 0
    ebno := zero }

end Sys2Proof.Machine
end

