-- ==== Sys2Proof/Machine/State.lean ====
section
/-! DEFINITION. The architectural state of the block (10_state.md R30), the host's accesses, the
reasons a step can stop, and the state after reset (70_reset_and_hazards.md R450). -/

namespace Sys2Proof.Machine

/-- An event record: eight words (R68). -/
structure EvRecord where
  w0 : Word
  w1 : Word
  w2 : Word
  w3 : Word
  w4 : Word
  w5 : Word
  w6 : Word
  w7 : Word
deriving DecidableEq, Repr

/-- The width of a host access (20_memory.md R83). -/
inductive Width where
  | w8
  | w16
  | w32
  | w64
deriving DecidableEq, Repr

/-- A host access reads, or writes a word (R10). The word of a write that is not 32 bits wide is
never looked at (R83). -/
inductive AccessKind where
  | read
  | write (v : Word)
deriving DecidableEq, Repr

/-- One host access at a byte offset from BLOCK_BASE (R10, R14, R80). -/
structure Access where
  kind : AccessKind
  width : Width
  off : Nat
deriving DecidableEq, Repr

/-- The MODEL's own part of the state: the host's side of the bus. `pending` holds the accesses still
to be taken, oldest first (log 2); `resp` the value returned by the last access, none after a write
(log 21). -/
structure Bus where
  pending : List Access
  resp : Option Word
deriving DecidableEq, Repr

/-- Why a step stops. No rule of the spec stops the block: its faults are next states (R401). -/
inductive Fault where
  /-- Raised by `step` for an access at an offset of 0x1000 or more: it lies outside the block's one
  address space (R80), so it is no access to the block. Safe: the hardware goes on, with another
  device answering. -/
  | outsideWindow
deriving DecidableEq, Repr

/-- Why a step has no meaning. -/
inductive Refusal where
  /-- Raised by an arm of `exec` whose instruction has no meaning yet; no arm does. Safe. -/
  | notModelled (mnemonic : String)
deriving DecidableEq, Repr

/-- The architectural state (R30): the registers of R33 that are stored, the active settings, the
datapath that APPLY rebuilds, the event FIFO with its counter, the sticky flags and the fault
registers. Registers that are views of other state (STATUS, IRQ, NSTAT, CD, EV_W0 ...) are computed
in Machine/Flags.lean and Machine/Regs.lean (log 14). -/
structure State where
  /-- ARG0, ARG1 (R32) -/
  arg0 : F64
  arg1 : F64
  /-- RES0, RES1 (R34) -/
  res0 : F64
  res1 : F64
  /-- FS to FFT_POWER, the pending settings (R42, R43) -/
  pend : Settings
  /-- CTRL bits [3:0]; the others read 0 (R36) -/
  ctrl : BitVec 4
  /-- A_FS to A_CTRL (R37, R44) -/
  act : Active
  /-- R45 to R49, R57 to R65 -/
  dp : Datapath
  /-- the event FIFO, head first (R67) -/
  fifo : List EvRecord
  /-- records pushed since reset, modulo 2^32 (R67) -/
  evseq : Word
  /-- STATUS.EVOVF, STATUS.OVR, STATUS.FAULT (R38) -/
  evovf : Bool
  ovr : Bool
  fault : Bool
  /-- ERR.CODE; the other bits of ERR read 0 (R40) -/
  err : BitVec 8
  /-- ERR_INFO (R41) -/
  errInfo : Word
  /-- the model's own: the host's accesses (logs 2, 21) -/
  bus : Bus
deriving DecidableEq, Repr

/-- reset_action() of a block with the configuration `cfg` (R450): the pending settings at their defaults, CTRL 0,
operands and results +0.0, no error, no flag, an empty FIFO, then APPLY's clamp and rebuild without its event. No
access is pending (log 2). -/
def State.resetAt (cfg : Params) : State where
  arg0 := F64.zero
  arg1 := F64.zero
  res0 := F64.zero
  res1 := F64.zero
  pend := defaultSettings
  ctrl := 0
  act := activeOf defaultSettings 0 cfg
  dp := rebuild (activeOf defaultSettings 0 cfg) cfg
  fifo := []
  evseq := 0
  evovf := false
  ovr := false
  fault := false
  err := 0
  errInfo := 0
  bus := { pending := [], resp := none }

/-- The state of this hardware after reset: `State.resetAt` with the default parameters (R11, R450). -/
def State.reset : State := State.resetAt params

end Sys2Proof.Machine
end

