-- ==== Sys2Proof/Machine/Ops.lean ====
section
/-! DEFINITION. The named operations over the state: the oscillators, the operand and result
registers, the event FIFO (10_state.md R67 to R69), taking a fault (60_exceptions.md R401) and the
one way out of it, the reset action (70_reset_and_hazards.md R450), the commit check (R412) and
the frame in which every command runs (30_encoding.md R116, R118). -/

namespace Sys2Proof.Machine

/-! ### Oscillators and results -/

/-- Oscillator k (R50). -/
def State.osc (s : State) (k : OscId) : Osc :=
  match k with
  | .mix => s.dp.mix
  | .tim => s.dp.tim
  | .car => s.dp.car

/-- Oscillator k <- o; the oscillators share nothing (R150). -/
def State.setOsc (s : State) (k : OscId) (o : Osc) : State :=
  match k with
  | .mix => { s with dp.mix := o }
  | .tim => { s with dp.tim := o }
  | .car => { s with dp.car := o }

/-- RES0 <- x; RES1 unchanged (R34). -/
def State.setRes0 (s : State) (x : F64) : State := { s with res0 := x }

/-- (RES0, RES1) <- z (R34). -/
def State.setRes (s : State) (z : Cplx) : State := { s with res0 := z.re, res1 := z.im }

/-! ### Events -/

/-- The events of R69 with their payloads. -/
inductive Event where
  /-- W1 = the sample index, W2 = 1 for a lock from trident acceptance -/
  | sigPresent (idx : Word) (burst : Bool)
  /-- W1 = the sample index, W2 = cause: 0 the countdown, 1 APPLY -/
  | sigAbsent (idx : Word) (byApply : Bool)
  /-- W1:W2 = MSE, W3:W4 = Eb/N0 -/
  | quality (mse ebno : F64)
  /-- W1:W2 = the estimate in Hz -/
  | freqEst (hz : F64)
  /-- W1:W2 = the new carrier frequency in Hz -/
  | carrierFreq (hz : F64)
  /-- W1 to W6 = twelve 16-bit elements -/
  | softBatch (els : List (BitVec 16))
  /-- W1 = the fault code, W2 = the information word -/
  | fault (code : FaultCode) (info : Word)
deriving DecidableEq, Repr

/-- TYPE, W0[7:0] (R69). -/
def Event.type : Event → Nat
  | .sigPresent _ _ => 1
  | .sigAbsent _ _ => 2
  | .quality _ _ => 3
  | .freqEst _ => 4
  | .carrierFreq _ => 5
  | .softBatch _ => 6
  | .fault _ _ => 7

/-- Elements 2j and 2j+1 of a batch in one word, the even one in the low half (R69). -/
def batchWord (els : List (BitVec 16)) (j : Nat) : Word := els.getD (2 * j + 1) 0 ++ els.getD (2 * j) 0

/-- A flag as a word, 1 or 0. -/
def flagWord (b : Bool) : Word := if b then 1 else 0

/-- W0 = SEQ << 8 | TYPE, SEQ the low 24 bits of evseq at the push (R67, R68). -/
def eventW0 (seq : Word) (ty : Nat) : Word := seq.extractLsb' 0 24 ++ BitVec.ofNat 8 ty

/-- The record of an event: the payload words of R69, unused words 0; a real takes two words, the
low one first (R68). -/
def Event.record (seq : Word) (e : Event) : EvRecord :=
  let w0 := eventW0 seq e.type
  match e with
  | .sigPresent idx b => ⟨w0, idx, flagWord b, 0, 0, 0, 0, 0⟩
  | .sigAbsent idx b => ⟨w0, idx, flagWord b, 0, 0, 0, 0, 0⟩
  | .quality m n => ⟨w0, m.lo32, m.hi32, n.lo32, n.hi32, 0, 0, 0⟩
  | .freqEst f => ⟨w0, f.lo32, f.hi32, 0, 0, 0, 0, 0⟩
  | .carrierFreq f => ⟨w0, f.lo32, f.hi32, 0, 0, 0, 0, 0⟩
  | .softBatch els =>
    ⟨w0, batchWord els 0, batchWord els 1, batchWord els 2, batchWord els 3, batchWord els 4, batchWord els 5, 0⟩
  | .fault c info => ⟨w0, BitVec.ofNat 32 c.code, info, 0, 0, 0, 0, 0⟩

/-- push(type, payload): a full FIFO drops the record and sets EVOVF, and evseq stays (R67). -/
def State.push (s : State) (e : Event) (cfg : Params := params) : State :=
  if s.fifo.length = cfg.evDepth then { s with evovf := true }
  else { s with fifo := s.fifo ++ [e.record s.evseq], evseq := s.evseq + 1 }

/-- EV_POP: drop the head record, if any (R379). -/
def State.popEvent (s : State) : State := { s with fifo := s.fifo.tail }

/-! ### Faults -/

/-- Taking a fault, `raise Fault(code, info)` (R401, R406): ERR, ERR_INFO and FAULT are written and
the FAULT event is pushed. The state given is the one before the faulting access, since its partial
effects are discarded (R403). No control is transferred: there is no pc (R406). -/
def raiseFault (c : FaultCode) (info : Word) (s : State) (cfg : Params := params) : State :=
  { s with fault := true, err := BitVec.ofNat 8 c.code, errInfo := info }.push (.fault c info) cfg

/-- The reset action, at power-on and for RESET: the only way out of the faulted state (R407, R450).
The host's accesses are not the block's state and stay. -/
def resetAction (s : State) (cfg : Params := params) : State := { State.resetAt cfg with bus := s.bus }

/-! ### Commands -/

/-- The commit check (R412): the step's new state, unless a binary64 value it would write is not
finite; then the step faults BAD_ARG on the state before it. -/
def commit (info : Word) (old new : State) (written : List F64) (cfg : Params := params) : State :=
  if written.all F64.isFinite then new else raiseFault .badArg info old cfg

/-- The frame of every command but RESET (R116, R405): refused without effect while FAULT = 1 (R404);
then the arguments it reads must be finite (R118); then the command computes its new state and the
binary64 values it writes, or a fault; then the commit check (R412). `w` is the command word. -/
def runCommand (w : Word) (args : List F64) (s : State) (body : Res (State × List F64)) (cfg : Params := params) : State :=
  if s.fault then s
  else if !args.all F64.isFinite then raiseFault .badArg w s cfg
  else match body with
    | .error c => raiseFault c w s cfg
    | .ok (s', written) => commit w s s' written cfg

/-! ### The host's side of the bus -/

/-- The oldest access is taken from the list, and nothing is returned yet. -/
def State.takeAccess (s : State) (rest : List Access) : State :=
  { s with bus := { pending := rest, resp := none } }

/-- The access returned `r` to the host. -/
def State.respond (s : State) (r : Option Word) : State := { s with bus.resp := r }

end Sys2Proof.Machine
end

