-- ==== Sys2Proof/Machine/Flags.lean ====
section
/-! DEFINITION. The flags of the block (10_state.md R38, R39, R52, R70; 60_exceptions.md R425). There
are no condition codes (R70): every flag is a STATUS or an NSTAT bit. -/

namespace Sys2Proof.Machine

/-- DCD: a signal is held, QGST ≠ 0 (R38, R320). -/
def State.dcd (s : State) : Bool := s.dp.gate.st != .noSig

/-- EV_COUNT (R56). -/
def State.evCount (s : State) : Nat := s.fifo.length

/-- EVNE: EV_COUNT > 0 (R38). -/
def State.evne (s : State) : Bool := decide (0 < s.evCount)

/-- CTRL.IRQ_EN, bit 3 (R36). -/
def State.irqEn (s : State) : Bool := s.ctrl.getLsbD 3

/-- The level of the IRQ line: IRQ_EN and (EV_COUNT > 0 or FAULT) (R425). -/
def State.irq (s : State) : Bool := s.irqEn && (s.evne || s.fault)

/-- A flag at bit n of a word. -/
def bitAt (b : Bool) (n : Nat) : Nat := if b then 2 ^ n else 0

/-- STATUS (R38): DCD 0, QGST [2:1], ACQST [4:3], FAULT 5, EVNE 6, EVOVF 7, OVR 8, IRQ 9. -/
def State.statusWord (s : State) : Word :=
  BitVec.ofNat 32 (bitAt s.dcd 0 + s.dp.gate.st.code * 2 ^ 1 + s.dp.acq.st.code * 2 ^ 3 + bitAt s.fault 5 +
    bitAt s.evne 6 + bitAt s.evovf 7 + bitAt s.ovr 8 + bitAt s.irq 9)

/-- A host write of v to STATUS: write-1-to-clear on bits 7 and 8, all other bits ignored (R39). -/
def State.writeStatus (s : State) (v : Word) : State :=
  { s with
    evovf := s.evovf && !v.getLsbD 7
    ovr := s.ovr && !v.getLsbD 8 }

/-- NSTAT: ARMED bit 0, LATCH bit 1 (R52). -/
def Osc.nstat (o : Osc) : Word := BitVec.ofNat 32 (bitAt o.armed 0 + bitAt o.latch 1)

/-- EV.FLUSH's flags: EVOVF and OVR become 0 (R376). -/
def State.clearSticky (s : State) : State := { s with evovf := false, ovr := false }

end Sys2Proof.Machine
end

