-- ==== Sys2Proof/Machine/Oscillator.lean ====
section
/-! DEFINITION. The oscillator's primitives (40_nco.md R150 to R158), used by the commands and by the
sample step. -/

namespace Sys2Proof.Machine

/-- Crossing the point: it latches while armed, and disarms (R151). -/
def Osc.crossPoint (o : Osc) : Osc := if o.armed then { o with latch := true, armed := false } else o

/-- Crossing the antipode re-arms (R151). -/
def Osc.crossAntipode (o : Osc) : Osc := { o with armed := true }

/-- The distance forward from the phase to the point, dP (R151). -/
def Osc.distPoint (o : Osc) : Word := o.point - o.phase

/-- The distance forward from the phase to the antipode of the point, dA (R151). -/
def Osc.distAntipode (o : Osc) : Word := (0x80000000 + o.point) - o.phase

/-- An arc of length L contains the word at distance d: 1 ≤ d ≤ L (R151). -/
def arcHits (d l : Word) : Bool := decide (0 < d.toNat) && decide (d.toNat ≤ l.toNat)

/-- The point, where the move crosses it (R151). -/
def Osc.passPoint (o : Osc) (hit : Bool) : Osc := if hit then o.crossPoint else o

/-- The antipode, where the move crosses it (R151). -/
def Osc.passAntipode (o : Osc) (hit : Bool) : Osc := if hit then o.crossAntipode else o

/-- The crossings of a forward move by L, in increasing order of their distance (R151). -/
def Osc.crossings (o : Osc) (l : Word) : Osc :=
  if o.distPoint.toNat < o.distAntipode.toNat then
    (o.passPoint (arcHits o.distPoint l)).passAntipode (arcHits o.distAntipode l)
  else (o.passAntipode (arcHits o.distAntipode l)).passPoint (arcHits o.distPoint l)

/-- fwd(o, L): move forward by L, with the crossings of (a, a + L] (R151). -/
def Osc.fwd (o : Osc) (l : Word) : Osc :=
  if l = 0 then o else { o.crossings l with phase := o.phase + l }

/-- advance(o) = fwd(o, o.ftw) (R154). -/
def Osc.advance (o : Osc) : Osc := o.fwd o.ftw

/-- A nudge by the phase word d: forward below half a cycle, else backward with no event (R155). -/
def Osc.nudge (o : Osc) (d : Word) : Osc :=
  if d.toNat < 2 ^ 31 then o.fwd d else { o with phase := o.phase + d }

/-- advanceFraction(o, x) (R155). -/
def Osc.advanceFraction (o : Osc) (x : F64) : Res Osc := (phaseword x).map o.nudge

/-- value(o) = cis(o.phase) (R153). -/
def Osc.value (o : Osc) : Cplx := cis o.phase

/-- setPhase(o, deg): the latch is unchanged (R152). -/
def Osc.setPhase (o : Osc) (deg : F64) : Res Osc :=
  (phaseword (deg.div ⟨0x4076800000000000⟩)).map fun p => { o with phase := p, armed := true }

/-- passed(o) consumes the latch; the report is the latch before it (R156). -/
def Osc.consumeLatch (o : Osc) : Osc := { o with latch := false }

/-- setFrequency(o, hz, fs): BAD_ARG on a non-finite argument or fs ≤ 0 (R157). -/
def Osc.setFrequency (o : Osc) (hz fs : F64) : Res Osc :=
  if !hz.isFinite || !fs.isFinite || F64.le fs F64.zero then .error .badArg
  else (phaseword (hz.div fs)).map fun w => { o with ftw := w }

/-- setPoint(o, f) (R158). -/
def Osc.setPoint (o : Osc) (f : F64) : Res Osc :=
  (phaseword f).map fun p => { o with point := p, armed := true, latch := false }

/-- A host write to PHASE (R51). -/
def Osc.writePhase (o : Osc) (v : Word) : Osc := { o with phase := v, armed := true }

/-- A host write to FTW (R51). -/
def Osc.writeFtw (o : Osc) (v : Word) : Osc := { o with ftw := v }

/-- A host write to POINT (R51). -/
def Osc.writePoint (o : Osc) (v : Word) : Osc := { o with point := v, armed := true, latch := false }

end Sys2Proof.Machine
end

