-- ==== Sys2Proof/Machine/Filters.lean ====
section
/-! DEFINITION. The primitives of the delay lines, averagers, AGC, matched filter and resonator
(41_filters.md R190, R195, R205, R211, R216). Each answers its output and its next state. -/

namespace Sys2Proof.Machine

open F64

/-- The value that a push takes out: the cell at the pointer (R190). -/
def DelayLine.out {α : Type} (d : DelayLine α) (dflt : α) : α := d.buf.getD d.ptr dflt

/-- dl_push's next state: the cell takes x and the pointer moves on, modulo the length (R190). -/
def DelayLine.push {α : Type} (d : DelayLine α) (x : α) : DelayLine α :=
  { buf := d.buf.set d.ptr x, ptr := (d.ptr + 1) % d.buf.length }

/-- ema_push(E, x); the new y is also what it returns (R195). -/
def Ema.push (e : Ema) (x : F64) : Ema := { e with y := F64.ema e.y e.alpha x }

/-- The AGC's next magnitude estimate (R205). -/
def Agc.push (a : Agc) (z : Cplx) : Agc := { a with m := F64.ema a.m a.alpha z.cabs }

/-- The AGC's output, from the estimate already updated: the gain 1.0 / max(m, AGC_FLOOR), each part
clamped to ±AGC_CEIL (R205). -/
def Agc.out (a : Agc) (z : Cplx) (cfg : Params := params) : Cplx :=
  let gn := one.div (fmax a.m cfg.agcFloor)
  let c := cfg.agcCeil
  ⟨clamp (gn.mul z.re) c.neg c, clamp (gn.mul z.im) c.neg c⟩

/-- A history of n cells, shifted by one with x the newest (R211). -/
def shiftIn (n : Nat) (h : List F64) (x : F64) : List F64 := (x :: h).take n

/-- mf_push's next state: both histories shifted (R211). -/
def MatchedFilter.push (f : MatchedFilter) (nmf : Nat) (x : Cplx) : MatchedFilter :=
  { f with hr := shiftIn nmf f.hr x.re, hi := shiftIn nmf f.hi x.im }

/-- One arm of the filter: the sum of h[i] × history[i] in increasing i from +0.0 (R211). -/
def firSum (taps hist : List F64) : F64 :=
  (taps.zip hist).foldl (fun acc p => acc.add (p.1.mul p.2)) zero

/-- mf_push's output, from the histories already shifted (R211). -/
def MatchedFilter.out (f : MatchedFilter) : Cplx := ⟨firSum f.taps f.hr, firSum f.taps f.hi⟩

/-- res_push's output: (g × u + a1 × s1) − a2 × s2 (R216). -/
def Resonator.out (r : Resonator) (u : F64) : F64 :=
  ((r.g.mul u).add (r.a1.mul r.s1)).sub (r.a2.mul r.s2)

/-- res_push's next state (R216). -/
def Resonator.push (r : Resonator) (u : F64) : Resonator := { r with s2 := r.s1, s1 := r.out u }

end Sys2Proof.Machine
end

