-- ==== Sys2Proof/Machine/Quality.lean ====
section
/-! DEFINITION. The quality gate, the slicer, the differential decoder and the soft-bit emitter
(44_quality_softbits.md R320 to R340). -/

namespace Sys2Proof.Machine

open F64

/-! ### Slicer and quantizer -/

/-- slice(S): the squared error, in units of QG_SCALE, and the decision (R321). -/
def slice (z : Cplx) (cfg : Params := params) : F64 × Cplx :=
  let cr := sgn z.re
  let ci := sgn z.im
  let er := (z.re.div cfg.qgScale).sub cr
  let ei := (z.im.div cfg.qgScale).sub ci
  ((er.mul er).add (ei.mul ei), ⟨cr, ci⟩)

/-- The decision code of QG.SLICE: 1.0 for a negative real arm plus 2.0 for a negative imaginary
one (R323). -/
def sliceCode (c : Cplx) : F64 :=
  (if F64.lt c.re zero then one else zero).add (if F64.lt c.im zero then two else zero)

/-- quant(v) (R336). `free` is the byte of a NaN, which R336 does not state (log 11). -/
def quant (free : BitVec 8) (v : F64) (cfg : Params := params) : BitVec 16 :=
  let t := cfg.sbOffset.add (cfg.sbGain.mul v)
  if F64.le ⟨0x406FE00000000000⟩ t then 255
  else if F64.le t zero then 0
  else if t.isNaN then free.zeroExtend 16
  else (BitVec.ofInt 8 t.rne).zeroExtend 16

/-- The imaginary-arm soft value: Im(zd · conj(zpp)) (R335). -/
def softImag (zd zpp : Cplx) : F64 := (zd.im.mul zpp.re).sub (zd.re.mul zpp.im)

/-- The real-arm soft value: Im(zc · conj(zd)) (R335). -/
def softReal (zc zd : Cplx) : F64 := (zc.im.mul zd.re).sub (zc.re.mul zd.im)

/-! ### Soft-bit buffer, lock and loss -/

/-- sb_push(x): SB_BATCH elements flush as one SOFT_BATCH event (R338). -/
def State.sbPush (s : State) (x : BitVec 16) (cfg : Params := params) : State :=
  let sb := s.dp.gate.sb ++ [x]
  if sb.length = cfg.sbBatch then { s with dp.gate.sb := [] }.push (.softBatch sb) cfg
  else { s with dp.gate.sb := sb }

/-- The sample index that events report: SAMPLE_CNT[31:0] before the step counts it (R350). -/
def State.sampleIndex (s : State) : Word := s.dp.sampleCnt.extractLsb' 0 32

/-- The part of lock that only a burst lock does: the loop integrators, the decoder memory and the
quality estimator go to zero (R325). -/
def State.resetLoops (s : State) : State :=
  { s with
    dp.car.ftw := 0
    dp.ted.y := zero
    dp.gate.zpp := Cplx.zero
    dp.qgMse.y := zero }

/-- The part of lock that every lock does, before its event (R325). -/
def State.startGate (s : State) : State :=
  { s with
    dp.gate.symSince := 0
    dp.gate.sinceLock := 0
    dp.gate.st := .acq
    dp.gate.cd := BitVec.ofNat 32 s.dp.gate.qgCd
    dp.gate.acqEl := 0 }

/-- lock(burst): the only way into a held signal (R325). -/
def State.lockOn (s : State) (burst : Bool) (cfg : Params := params) : State :=
  let s1 := (if burst then s.resetLoops else s).startGate
  (s1.push (.sigPresent s1.sampleIndex burst) cfg).sbPush cfg.sbSentinel cfg

/-- setFrequency(MIX, hz, FS) with CARRIER_FREQ <- hz (R252, R328). -/
def State.retune (s : State) (hz : F64) : Res State :=
  (s.dp.mix.setFrequency hz s.act.fs).map fun o => { s with dp.mix := o, dp.gate.carrier := hz }

/-- lost(): NoSignal, the event, the MSE sentinel, and the mixer back at FC (R328). -/
def State.lost (s : State) (cfg : Params := params) : Res State :=
  let s1 := { s with dp.gate.st := .noSig }.push (.sigAbsent s.sampleIndex false) cfg
  { s1 with dp.qgMse.y := cfg.qgMseNolock }.retune s.act.fc

/-! ### The gate step and the quality report -/

/-- The gate step of one sample: the initial delay in ACQ (R326), the countdown in LOCK (R327). -/
def State.gateStep (s : State) (cfg : Params := params) : Res State :=
  match s.dp.gate.st with
  | .noSig => .ok s
  | .acq =>
    let n := s.dp.gate.acqEl + 1
    let s1 := { s with dp.gate.acqEl := n }
    .ok (if s.dp.gate.qgDelay ≤ n.toNat then { s1 with dp.gate.st := .lock } else s1)
  | .lock =>
    if F64.lt s.dp.qgMse.y s.act.thr then .ok { s with dp.gate.cd := BitVec.ofNat 32 s.dp.gate.qgCd }
    else
      let s1 := { s with dp.gate.cd := s.dp.gate.cd - 1 }
      if s1.dp.gate.cd = 0 then s1.lost cfg else .ok s1

/-- ebno(m) = 10.0 × log10(1.0 / max(m, 1.0e-10)) (R330). -/
def ebnoOf (m : F64) : F64 := ten.mul (Config.log10 (one.div (fmax m ⟨0x3DDB7CDFD9D7BDBB⟩)))

/-- sat32(v + 1) (R15). -/
def satInc (v : Word) : Word := if v = 0xFFFFFFFF then v else v + 1

/-- Step 12's counters: since_lock saturates, SAMPLE_CNT wraps (R48, R49, R350). -/
def State.countSample (s : State) : State :=
  { s with
    dp.gate.sinceLock := satInc s.dp.gate.sinceLock
    dp.sampleCnt := s.dp.sampleCnt + 1 }

/-- The quality report, every REPORT samples, in every gate state (R331). -/
def State.qualityReport (s : State) (cfg : Params := params) : State :=
  if s.dp.sampleCnt.toNat % s.dp.gate.report = 0 then
    let e := ebnoOf s.dp.qgMse.y
    { s with dp.ebno := e }.push (.quality s.dp.qgMse.y e) cfg
  else s

end Sys2Proof.Machine
end

