-- ==== Sys2Proof/Machine/Acquisition.lean ====
section
/-! DEFINITION. The two acquisition strategies (42_acquisition.md R240 to R269). Both run inside the
sample step, on the mixed sample `xm`. -/

namespace Sys2Proof.Machine

open F64

/-! ### Burst acquisition (A_CTRL.MODE_CONT = 0) -/

/-- The envelope statistic bt = min(bs − bl, BT_CEIL), after both averages took |xm| (R241). -/
def State.envelope (s : State) (xm : Cplx) (cfg : Params := params) : F64 × State :=
  let mag := xm.cabs
  let s1 := { s with dp.btS := s.dp.btS.push mag, dp.btL := s.dp.btL.push mag }
  (fmin (s1.dp.btS.y.sub s1.dp.btL.y) cfg.btCeil, s1)

/-- A peak: the previous statistic is a maximum above BT_THR, and the detector is armed (R242). -/
def Burst.isPeak (b : Burst) (bt : F64) (cfg : Params := params) : Bool :=
  b.armed && F64.lt cfg.btThr b.bt1 && F64.le b.bt2 b.bt1 && F64.lt bt b.bt1

/-- The peak detector's next state (R242), with the restart of the fill on a peak (R243). -/
def Burst.detect (b : Burst) (bt : F64) (cfg : Params := params) : Burst :=
  let b1 := { b with
    armed := if b.isPeak bt cfg then false else if F64.lt bt cfg.btRearm then true else b.armed
    bt2 := b.bt1
    bt1 := bt }
  if b.isPeak bt cfg then { b1 with ptr := 0, st := .filling } else b1

/-- The bin spacing hzb = FS / NACQ (R245). -/
def binSpacing (fs : F64) (n : Nat) : F64 := fs.div (F64.ofNat n)

/-- A segment zero-padded to N values (R245, R248). -/
def padTo (n : Nat) (x : List Cplx) : List Cplx := x ++ List.replicate (n - x.length) Cplx.zero

/-- Bs, the centred spectrum of the base segment (R248). -/
def Burst.baseSpectrum (b : Burst) : Nat → Cplx :=
  shifted b.nacq (Config.dft b.nacq (padTo b.nacq (b.buf.take b.lb)))

/-- Ts, the centred spectrum of the top segment (R248). -/
def Burst.topSpectrum (b : Burst) : Nat → Cplx :=
  shifted b.nacq (Config.dft b.nacq (padTo b.nacq ((b.buf.drop b.lb).take b.lt)))

/-- minvalbin and its magnitude: the strongest bin, the lowest index on ties (R249). -/
def strongest (n : Nat) (x : Nat → Cplx) : Nat × F64 :=
  (List.range n).tail.foldl
    (fun best i => if F64.lt best.2 (x i).cabs then (i, (x i).cabs) else best) (0, (x 0).cabs)

/-- SP, the expected tone spacing in bins (R247). -/
def toneSpacing (fb hzb : F64) (cfg : Params := params) : F64 := (cfg.acqSpacingFb.mul fb).div hzb

/-- DZ = round(SP / 2.0), the dead zone (R247). -/
def deadZone (sp : F64) : Int := (sp.div two).round

/-- SM = round(ACQ_SEARCH_MULT × SP), the far end of the search (R247). -/
def searchEnd (sp : F64) (cfg : Params := params) : Int := (cfg.acqSearchMult.mul sp).round

/-- The integers lo, lo + 1, …, hi. -/
def intRange (lo hi : Int) : List Int := (List.range (hi - lo + 1).toNat).map fun (n : Nat) => lo + (n : Int)

/-- One candidate of the side search: out-of-range bins are skipped, the first of equals stays (R249). -/
def sideStep (n : Nat) (x : Nat → Cplx) (best : Option (Int × F64)) (i : Int) : Option (Int × F64) :=
  if 0 ≤ i ∧ i < n then
    match best with
    | none => some (i, (x i.toNat).cabs)
    | some (_, m) => if F64.lt m (x i.toNat).cabs then some (i, (x i.toNat).cabs) else best
  else best

/-- The strongest bin at distances DZ to SM on one side of mv, `dir` = -1 below or 1 above (R249). -/
def sideSearch (n : Nat) (x : Nat → Cplx) (mv : Nat) (dz sm dir : Int) : Option (Int × F64) :=
  (intRange dz sm).foldl (fun best d => sideStep n x best (mv + dir * d)) none

/-- accept(mm, ratio) (R250). -/
def State.accepts (s : State) (mm ratio : F64) (cfg : Params := params) : Bool :=
  F64.lt cfg.acqBaseThr mm && F64.le (ratio.sub one).abs cfg.acqTol &&
    s.dp.gate.st == .noSig && decide (s.dp.acq.dead ≤ s.dp.gate.sinceLock.toNat)

/-- accept_actions(): the mixer to the midpoint of the two top peaks, the carrier phase from the base
bin, CARRIER_FREQ, then lock (R252). -/
def State.acceptActions (s : State) (lo hi : Int) (hzb : F64) (b : Cplx) (cfg : Params := params) : Res State := do
  let mid := (F64.ofInt (lo + hi)).div two
  let foff := (mid.sub ((F64.ofNat s.dp.acq.nacq).div two)).mul hzb
  let newf := s.dp.gate.carrier.add foff
  let s1 ← s.retune newf
  let p ← phaseword ((Config.atan2 b.im b.re).div twoPi)
  let s2 := { s1 with dp.car.phase := p, dp.car.armed := true }
  let s3 := (s2.push (.carrierFreq newf) cfg).lockOn true cfg
  return { s3 with dp.acq.st := .locked }

/-- verify()'s decision from the two spectra and the bin spacing (R249). -/
def State.verifyWith (s : State) (bs ts : Nat → Cplx) (hzb : F64) (cfg : Params := params) : Res State :=
  let n := s.dp.acq.nacq
  let mv := strongest n bs
  if F64.eq hzb zero then .error .zeroDiv
  else
    let sp := toneSpacing s.act.fb hzb cfg
    match sideSearch n ts mv.1 (deadZone sp) (searchEnd sp cfg) (-1),
        sideSearch n ts mv.1 (deadZone sp) (searchEnd sp cfg) 1 with
    | some lo, some hi =>
      if F64.eq sp zero then .error .zeroDiv
      else if s.accepts mv.2 ((F64.ofInt (hi.1 - mv.1)).div sp) cfg then s.acceptActions lo.1 hi.1 hzb (bs mv.1) cfg
      else .ok { s with dp.acq.st := .rejected }
    | _, _ => .ok { s with dp.acq.st := .rejected }

/-- verify() (R249). -/
def State.verify (s : State) (cfg : Params := params) : Res State :=
  s.verifyWith s.dp.acq.baseSpectrum s.dp.acq.topSpectrum (binSpacing s.act.fs s.dp.acq.nacq) cfg

/-- The fill step: store the sample, and verify when the buffer is full (R246). -/
def State.fillStep (s : State) (xm : Cplx) (cfg : Params := params) : Res State :=
  let b := s.dp.acq
  if b.st = .filling then
    let s1 := { s with dp.acq.buf := b.buf.set b.ptr xm, dp.acq.ptr := b.ptr + 1 }
    if b.ptr + 1 = b.lb + b.lt then { s1 with dp.acq.st := .verifying }.verify cfg else .ok s1
  else .ok s

/-- Burst acquisition of one sample: envelope, peak detector, fill, verification (R240). -/
def State.burstStep (s : State) (xm : Cplx) (cfg : Params := params) : Res State :=
  let e := s.envelope xm cfg
  { e.2 with dp.acq := e.2.dp.acq.detect e.1 cfg }.fillStep xm cfg

/-! ### Continuous estimation (A_CTRL.MODE_CONT = 1) -/

/-- The signed frequency of bin k: k or k − NC times the bin spacing (R262). -/
def binFreq (nc : Nat) (hzb : F64) (k : Nat) : F64 :=
  (F64.ofInt (if k < nc / 2 then (k : Int) else (k : Int) - nc)).mul hzb

/-- The raised-cosine taper outside the band edge (R262). -/
def taper (af half : F64) : F64 :=
  F64.half.mul (one.add (Config.cos (pi.mul (fmin one ((af.sub half).div half)))))

/-- A bin after zeroing or windowing outside the locking bandwidth (R262). -/
def bandLimit (window : Bool) (lbw fk : F64) (x : Cplx) : Cplx :=
  let half := lbw.div two
  let af := fk.abs
  if F64.lt half af then
    if window && F64.lt zero lbw then ⟨x.re.mul (taper af half), x.im.mul (taper af half)⟩ else Cplx.zero
  else x

/-- Qs: the frame transformed, band-limited, inverse-transformed, squared, transformed again and
centred (R261 to R263). -/
def squaredSpectrum (window : Bool) (lbw hzb : F64) (nc : Nat) (frame : List Cplx) : Nat → Cplx :=
  let x := (List.range nc).map fun k => bandLimit window lbw (binFreq nc hzb k) (Config.dft nc frame k)
  let q := (List.range nc).map fun n => (Config.idft nc x n).sq
  shifted nc (Config.dft nc q)

/-- Mc, smoothed with the weight CONT_ALPHA (R264). -/
def smoothMags (mags : List F64) (qs : Nat → Cplx) (cfg : Params := params) : List F64 :=
  mags.mapIdx fun i m => F64.ema m cfg.contAlpha (qs i).cabs

/-- One centre of the fold search: pairs outside the spectrum are skipped, the lowest k stays on
ties (R265). -/
def foldStep (nc : Nat) (mc : List F64) (t : Int) (best : Option (Int × F64)) (k : Int) : Option (Int × F64) :=
  let i1 : Int := (nc / 2 : Nat) + k - t
  let i2 : Int := (nc / 2 : Nat) + k + t
  if 0 ≤ i1 ∧ i1 < nc ∧ 0 ≤ i2 ∧ i2 < nc then
    let e := (mc.getD i1.toNat zero).add (mc.getD i2.toNat zero)
    match best with
    | none => some (k, e)
    | some (_, be) => if F64.lt be e then some (k, e) else best
  else best

/-- The winning centre over k from −K to K (R265). -/
def foldSearch (nc : Nat) (mc : List F64) (t kMax : Int) : Option (Int × F64) :=
  (intRange (-kMax) kMax).foldl (foldStep nc mc t) none

/-- The estimate, half the winning centre in Hz; 0.0 without one (R265, R266). -/
def coarseEstimate (fb lbw hzb : F64) (nc : Nat) (mc : List F64) : F64 :=
  match foldSearch nc mc ((fb.div two).div hzb).round (lbw.div hzb).round with
  | some (k, _) => ((F64.ofInt k).mul hzb).div two
  | none => zero

/-- cont_frame(): spectrum, smoothing, fold search, settle suppression, FREQ_EST and its event. The
estimate is not applied to the mixer (R261 to R268). -/
def State.contFrame (s : State) (cfg : Params := params) : State :=
  let c := s.dp.cont
  let hzb := binSpacing s.act.fs c.nc
  let mc := smoothMags c.mags (squaredSpectrum s.act.contWindow s.act.lbw hzb c.nc c.frame) cfg
  let est := if c.settle = 0 then coarseEstimate s.act.fb s.act.lbw hzb c.nc mc else zero
  { s with
    dp.cont.mags := mc
    dp.cont.settle := if c.settle = 0 then 0 else c.settle - 1
    dp.freqEst := est }.push (.freqEst est) cfg

/-- Frame collection of one sample; frames do not overlap (R260). -/
def State.contStep (s : State) (xm : Cplx) (cfg : Params := params) : State :=
  let c := s.dp.cont
  let s1 := { s with dp.cont.frame := c.frame.set c.ptr xm, dp.cont.ptr := c.ptr + 1 }
  if c.ptr + 1 = c.nc then { s1.contFrame cfg with dp.cont.ptr := 0 } else s1

/-- Step 3 of the sample step: the strategy A_CTRL.MODE_CONT selects (R240, R260, R350). -/
def State.acquire (s : State) (xm : Cplx) (cfg : Params := params) : Res State :=
  if s.act.modeCont then .ok (s.contStep xm cfg) else s.burstStep xm cfg

end Sys2Proof.Machine
end

