-- ==== Sys2Proof/Machine/Pipeline.lean ====
section
/-! DEFINITION. The tracking loops (43_tracking.md R290 to R303) and the sample step, stage by stage
in the order of 45_sample_pipeline.md R350. -/

namespace Sys2Proof.Machine

open F64

/-- Step 1, the AGC: its output and the next state (R205, R350). -/
def State.stageAgc (s : State) (z : Cplx) (cfg : Params := params) : Cplx × State :=
  let a := s.dp.agc.push z
  (a.out z cfg, { s with dp.agc := a })

/-- Step 2, mix to baseband with MIX's value before it advances (R350, R353). -/
def State.stageMix (s : State) (ya : Cplx) : Cplx × State :=
  (Cplx.mulconj ya s.dp.mix.value, { s with dp.mix := s.dp.mix.advance })

/-- Step 4, carrier correction with CAR's value before it advances (R301, R350). -/
def State.stageCarrier (s : State) (xm : Cplx) : Cplx × State :=
  (Cplx.mulconj xm s.dp.car.value, { s with dp.car := s.dp.car.advance })

/-- Step 5, the matched filter: y and the next state (R211, R350). -/
def State.stageFilter (s : State) (xc : Cplx) : Cplx × State :=
  let f := s.dp.mf.push s.dp.nmf xc
  (f.out, { s with dp.mf := f })

/-- Step 5, the one-symbol delay of y (R294, R350). -/
def State.stageDelay (s : State) (y : Cplx) : Cplx × State :=
  (s.dp.dlSym.out Cplx.zero, { s with dp.dlSym := s.dp.dlSym.push y })

/-- Step 6, the envelope through the resonator and its delay: sd (R290). -/
def State.stageResonator (s : State) (y : Cplx) : F64 × State :=
  let u := y.pow2
  let r := s.dp.res.out u
  (s.dp.dlTim.out zero, { s with dp.res := s.dp.res.push u, dp.dlTim := s.dp.dlTim.push r })

/-- Step 7, the filtered timing error, with TIM's value before it advances (R291). -/
def State.stageTed (s : State) (sd : F64) : State :=
  let ct := s.dp.tim.value
  { s with dp.ted := s.dp.ted.push (sd.mul (two.mul (ct.re.mul ct.im))) }

/-- Step 8, the gain ramp from TIM_KS to TIM_KE (R292). -/
def State.timingGain (s : State) (cfg : Params := params) : F64 :=
  let p := if s.dp.timRamp = 0 then one
    else fmin one ((F64.ofNat s.dp.gate.symSince.toNat).div (F64.ofNat s.dp.timRamp))
  cfg.timKs.add ((cfg.timKe.sub cfg.timKs).mul p)

/-- Step 9, TIM's advance and nudge, and the symbol instant, which consumes the latch (R293). -/
def State.stageTiming (s : State) (cfg : Params := params) : Res (Bool × State) :=
  (s.dp.tim.advance.advanceFraction ((s.timingGain cfg).mul s.dp.ted.y).neg).map fun o =>
    (o.latch, { s with dp.tim := o.consumeLatch })

/-- tv(w) = tanh(w.im) × w.re (R300). -/
def tv (w : Cplx) : F64 := (Config.tanh w.im).mul w.re

/-- The carrier error of a symbol instant, clamped to ±π/2 (R300). -/
def carrierError (zc zd : Cplx) : F64 := clamp ((tv zc).sub (tv zd)) halfPi.neg halfPi

/-- CAR's frequency term, once sym_since has reached CAR_FSTART (R302). -/
def Osc.frequencyTerm (o : Osc) (settled : Bool) (e : F64) (cfg : Params := params) : Res Osc :=
  if settled then (phaseword ((cfg.carKf.mul e).div twoPi)).map fun w => { o with ftw := o.ftw + w }
  else .ok o

/-- The carrier update of a symbol instant: the phase nudge, then the frequency term (R301 to R303). -/
def State.carrierUpdate (s : State) (zc zd : Cplx) (cfg : Params := params) : Res State := do
  let e := carrierError zc zd
  let o ← s.dp.car.advanceFraction ((cfg.carKp.mul e).div twoPi)
  let o' ← o.frequencyTerm (decide (s.dp.carFstart ≤ s.dp.gate.symSince.toNat)) e cfg
  return { s with dp.car := o' }

/-- The differential decoder and the emitter of a symbol instant: v1, v2, zpp <- zc, and the two
soft bytes while a signal is held (R335, R340). -/
def State.decodeSymbol (s : State) (zc zd : Cplx) (cfg : Params := params) : State :=
  let zpp := s.dp.gate.zpp
  let free := Config.quantNaN zc zd
  let s1 := { s with dp.gate.zpp := zc }
  if s.dp.gate.st = .noSig then s1
  else (s1.sbPush (quant (free zpp) (softImag zd zpp) cfg) cfg).sbPush (quant (free zd) (softReal zc zd) cfg) cfg

/-- Step 10's counters (R48, R49, R350). -/
def State.countSymbol (s : State) : State :=
  { s with
    dp.gate.symSince := satInc s.dp.gate.symSince
    dp.symbolCnt := s.dp.symbolCnt + 1 }

/-- The continuous-mode lock, the last test of a symbol instant (R324, R350). -/
def State.contLock (s : State) (cfg : Params := params) : State :=
  if s.act.modeCont && s.dp.gate.st == .noSig && F64.lt s.dp.qgMse.y s.act.thr then s.lockOn false cfg else s

/-- Step 10, the per-symbol logic, with zc = y and zd = yd (R294, R303, R350). -/
def State.stageSymbol (s : State) (zc zd : Cplx) (cfg : Params := params) : Res State :=
  (s.carrierUpdate zc zd cfg).map fun s1 =>
    let s2 := { s1 with dp.qgMse := s1.dp.qgMse.push (slice ⟨zc.re, zd.im⟩ cfg).1 }
    (s2.decodeSymbol zc zd cfg).countSymbol.contLock cfg

/-- Step 12: the counters and the quality report (R331, R350). -/
def State.stageCount (s : State) (cfg : Params := params) : State := s.countSample.qualityReport cfg

/-- An i16 part of a sample divided by 32768.0 (R352). -/
def ingress (i q : Int) : Cplx := ⟨(F64.ofInt i).div ⟨0x40E0000000000000⟩, (F64.ofInt q).div ⟨0x40E0000000000000⟩⟩

/-- Steps 4 to 9, from the mixed sample to the symbol test: y, yd, the instant, the next state (R350). -/
def State.trackSample (s : State) (xm : Cplx) (cfg : Params := params) : Res ((Cplx × Cplx) × (Bool × State)) :=
  let c := s.stageCarrier xm
  let f := c.2.stageFilter c.1
  let d := f.2.stageDelay f.1
  let r := d.2.stageResonator f.1
  ((r.2.stageTed r.1).stageTiming cfg).map fun t => ((f.1, d.1), t)

/-- The sample step of R350 from an accepted sample, up to the commit check. -/
def State.sampleCore (s : State) (i q : Int) (cfg : Params := params) : Res State := do
  let a := s.stageAgc (ingress i q) cfg
  let m := a.2.stageMix a.1
  let s3 ← m.2.acquire m.1 cfg
  let t ← s3.trackSample m.1 cfg
  let s10 ← if t.2.1 then t.2.2.stageSymbol t.1.1 t.1.2 cfg else .ok t.2.2
  let s11 ← s10.gateStep cfg
  return s11.stageCount cfg

/-- The binary64 values a sample step writes, in the state `new` it would leave (R412; log 12): every
scalar of the internal state, both histories, and the cells it stored; in continuous mode all of Mc
when a frame ended. -/
def sampleWrites (modeCont : Bool) (old new : Datapath) : List F64 :=
  [new.agc.m, new.btS.y, new.btL.y, new.acq.bt1, new.acq.bt2, new.freqEst, new.gate.carrier,
    new.res.s1, new.res.s2, new.ted.y, new.qgMse.y, new.gate.zpp.re, new.gate.zpp.im, new.ebno] ++
  new.mf.hr ++ new.mf.hi ++
  [(new.dlSym.buf.getD old.dlSym.ptr Cplx.zero).re, (new.dlSym.buf.getD old.dlSym.ptr Cplx.zero).im,
    new.dlTim.buf.getD old.dlTim.ptr zero,
    (new.acq.buf.getD (new.acq.ptr - 1) Cplx.zero).re, (new.acq.buf.getD (new.acq.ptr - 1) Cplx.zero).im,
    (new.cont.frame.getD old.cont.ptr Cplx.zero).re, (new.cont.frame.getD old.cont.ptr Cplx.zero).im] ++
  (if modeCont ∧ new.cont.ptr = 0 then new.cont.mags else [])

/-- A sample is refused when fewer than EV_RESERVE records are free (R351). -/
def State.backPressure (s : State) (cfg : Params := params) : Bool := decide (cfg.evDepth - cfg.evReserve < s.evCount)

/-- The sample step: refused while faulted; refused with OVR under back-pressure; else run, rolled
back whole on a fault (R354), and committed (R350, R351, R405, R412). -/
def runSample (i q : Int) (s : State) (cfg : Params := params) : State :=
  let w := sampleWord i q
  if s.fault then s
  else if s.backPressure cfg then { s with ovr := true }
  else match s.sampleCore i q cfg with
    | .error c => raiseFault c w s cfg
    | .ok s' => commit w s s' (sampleWrites s.act.modeCont s.dp s'.dp) cfg

end Sys2Proof.Machine
end

