-- ==== Sys2Proof/Machine/Operands.lean ====
section
/-! DEFINITION. The operand forms of the commands (30_encoding.md R112, R113): real operands in
ARG0 and ARG1, real results in RES0 and RES1, the unit in the word. A shared operation here is one
command of R113 for any of its units; the meanings are one line over them. -/

namespace Sys2Proof.Machine

open F64

/-- The complex operand (ARG0, ARG1) (R112). -/
def State.argZ (s : State) : Cplx := ⟨s.arg0, s.arg1⟩

/-- The UNIT of an oscillator (R114). -/
def OscId.unit : OscId → Nat
  | .mix => 0
  | .tim => 1
  | .car => 2

/-- The UNIT of an averager (R196). -/
def EmaId.unit : EmaId → Nat
  | .btS => 0
  | .btL => 1
  | .qgMse => 2
  | .ted => 3

/-- An averager (R62). -/
def State.ema (s : State) (k : EmaId) : Ema :=
  match k with
  | .btS => s.dp.btS
  | .btL => s.dp.btL
  | .qgMse => s.dp.qgMse
  | .ted => s.dp.ted

/-- Averager k <- e. -/
def State.setEma (s : State) (k : EmaId) (e : Ema) : State :=
  match k with
  | .btS => { s with dp.btS := e }
  | .btL => { s with dp.btL := e }
  | .qgMse => { s with dp.qgMse := e }
  | .ted => { s with dp.ted := e }

/-! ### Oscillator commands (40_nco.md section 2) -/

/-- NCO.SETFREQ: setFrequency(o, ARG0, ARG1) (R160). -/
def ncoSetfreq (k : OscId) (s : State) (cfg : Params := params) : State :=
  runCommand (cmdWord 0x10 k.unit) [s.arg0, s.arg1] s
    (((s.osc k).setFrequency s.arg0 s.arg1).map fun o => (s.setOsc k o, [])) cfg

/-- NCO.SETPHASE: setPhase(o, ARG0) (R161). -/
def ncoSetphase (k : OscId) (s : State) (cfg : Params := params) : State :=
  runCommand (cmdWord 0x11 k.unit) [s.arg0] s
    (((s.osc k).setPhase s.arg0).map fun o => (s.setOsc k o, [])) cfg

/-- NCO.VALUE: (RES0, RES1) <- value(o) (R162). -/
def ncoValue (k : OscId) (s : State) (cfg : Params := params) : State :=
  runCommand (cmdWord 0x12 k.unit) [] s
    (.ok (s.setRes (s.osc k).value, [(s.osc k).value.re, (s.osc k).value.im])) cfg

/-- NCO.ADVANCE: advance(o) (R163). -/
def ncoAdvance (k : OscId) (s : State) (cfg : Params := params) : State :=
  runCommand (cmdWord 0x13 k.unit) [] s (.ok (s.setOsc k (s.osc k).advance, [])) cfg

/-- NCO.ADVFRAC: advanceFraction(o, ARG0) (R164). -/
def ncoAdvfrac (k : OscId) (s : State) (cfg : Params := params) : State :=
  runCommand (cmdWord 0x14 k.unit) [s.arg0] s
    (((s.osc k).advanceFraction s.arg0).map fun o => (s.setOsc k o, [])) cfg

/-- NCO.SETPOINT: setPoint(o, ARG0) (R165). -/
def ncoSetpoint (k : OscId) (s : State) (cfg : Params := params) : State :=
  runCommand (cmdWord 0x15 k.unit) [s.arg0] s
    (((s.osc k).setPoint s.arg0).map fun o => (s.setOsc k o, [])) cfg

/-- NCO.PASSED: RES0 <- 1.0 if passed(o), else 0.0; the latch is consumed (R166). -/
def ncoPassed (k : OscId) (s : State) (cfg : Params := params) : State :=
  let r := if (s.osc k).latch then one else zero
  runCommand (cmdWord 0x16 k.unit) [] s (.ok ((s.setOsc k (s.osc k).consumeLatch).setRes0 r, [r])) cfg

/-! ### Filter commands (41_filters.md) -/

/-- DL.PUSH DL_TIM: RES0 <- dl_push(DL_TIM, ARG0) (R191). -/
def dlPushTim (s : State) (cfg : Params := params) : State :=
  let out := s.dp.dlTim.out zero
  runCommand (cmdWord 0x20 0) [s.arg0] s
    (.ok ({ s with dp.dlTim := s.dp.dlTim.push s.arg0 }.setRes0 out, [s.arg0, out])) cfg

/-- DL.PUSH DL_SYM: (RES0, RES1) <- dl_push(DL_SYM, (ARG0, ARG1)) (R191). -/
def dlPushSym (s : State) (cfg : Params := params) : State :=
  let out := s.dp.dlSym.out Cplx.zero
  runCommand (cmdWord 0x20 1) [s.arg0, s.arg1] s
    (.ok ({ s with dp.dlSym := s.dp.dlSym.push s.argZ }.setRes out, [s.arg0, s.arg1, out.re, out.im])) cfg

/-- MF.PUSH: (RES0, RES1) <- mf_push((ARG0, ARG1)) (R212). -/
def mfPush (s : State) (cfg : Params := params) : State :=
  let f := s.dp.mf.push s.dp.nmf s.argZ
  runCommand (cmdWord 0x21 0) [s.arg0, s.arg1] s
    (.ok ({ s with dp.mf := f }.setRes f.out, f.hr ++ f.hi ++ [f.out.re, f.out.im])) cfg

/-- EMA.PUSH: RES0 <- ema_push(E, ARG0) (R196). -/
def emaPush (k : EmaId) (s : State) (cfg : Params := params) : State :=
  let e := (s.ema k).push s.arg0
  runCommand (cmdWord 0x22 k.unit) [s.arg0] s (.ok ((s.setEma k e).setRes0 e.y, [e.y])) cfg

/-- RES.PUSH: RES0 <- res_push(ARG0) (R217). -/
def resPush (s : State) (cfg : Params := params) : State :=
  let r := s.dp.res.push s.arg0
  runCommand (cmdWord 0x23 0) [s.arg0] s
    (.ok ({ s with dp.res := r }.setRes0 (s.dp.res.out s.arg0), [r.s1, r.s2])) cfg

/-- AGC.PUSH: (RES0, RES1) <- agc_push((ARG0, ARG1)) (R207). -/
def agcPush (s : State) (cfg : Params := params) : State :=
  let a := s.dp.agc.push s.argZ
  runCommand (cmdWord 0x24 0) [s.arg0, s.arg1] s
    (.ok ({ s with dp.agc := a }.setRes (a.out s.argZ cfg), [a.m, (a.out s.argZ cfg).re, (a.out s.argZ cfg).im])) cfg

/-! ### Quantizer and slicer (44_quality_softbits.md) -/

/-- SB.QUANT: RES0 <- quant(ARG0), as an exact integer (R337). ARG0 is finite here, so the byte of a
NaN is not used. -/
def sbQuant (s : State) (cfg : Params := params) : State :=
  let r := F64.ofNat (quant (Config.quantNaN Cplx.zero Cplx.zero Cplx.zero) s.arg0 cfg).toNat
  runCommand (cmdWord 0x25 0) [s.arg0] s (.ok (s.setRes0 r, [r])) cfg

/-- QG.SLICE: RES0 <- the squared error, RES1 <- the decision code; the MSE is not touched (R323). -/
def qgSlice (s : State) (cfg : Params := params) : State :=
  let p := slice s.argZ cfg
  runCommand (cmdWord 0x26 0) [s.arg0, s.arg1] s
    (.ok (s.setRes ⟨p.1, sliceCode p.2⟩, [p.1, sliceCode p.2])) cfg

end Sys2Proof.Machine
end

