-- ==== Sys2Proof/Machine/Control.lean ====
section
/-! DEFINITION. The control commands NOP, APPLY, RESET and EV.FLUSH (46_control.md R370 to R376). -/

namespace Sys2Proof.Machine

/-- A meaning's outcome: every command of the block answers a next state, faults included (R401). -/
abbrev StepOutcome := Host.Outcome State Fault Refusal

/-- NOP does nothing (R370). -/
def execNop (s : State) (cfg : Params := params) : StepOutcome :=
  .next (runCommand (cmdWord 0x00 0) [] s (.ok (s, [])) cfg)

/-- The state after APPLY's clamp and rebuild (R371, R372). -/
def State.applied (s : State) (cfg : Params := params) : State :=
  let a := activeOf s.pend s.ctrl cfg
  { s with act := a, dp := rebuild a cfg }

/-- APPLY's SIG_ABSENT: only if a signal was held, after the rebuild, with the sample index from before
it and cause 1 (R373). -/
def State.applyEvent (old new : State) (cfg : Params := params) : State :=
  if old.dcd then new.push (.sigAbsent old.sampleIndex true) cfg else new

/-- APPLY: BAD_SETTINGS, or the clamp, the rebuild and the event (R371). Its rebuild cannot fault
(R372), and BAD_SETTINGS is its one fault (R400; log 13). -/
def execApply (s : State) (cfg : Params := params) : StepOutcome :=
  .next (runCommand (cmdWord 0x01 0) [] s
    (if settingsLegal s.pend then .ok (s.applyEvent (s.applied cfg) cfg, []) else .error .badSettings) cfg)

/-- RESET: the one command accepted while FAULT = 1 (R375, R404). -/
def execReset (s : State) (cfg : Params := params) : StepOutcome := .next (resetAction s cfg)

/-- EV.FLUSH: an empty FIFO and no sticky flag; evseq stays (R376). -/
def execEvFlush (s : State) (cfg : Params := params) : StepOutcome :=
  .next (runCommand (cmdWord 0x03 0) [] s (.ok ({ s with fifo := [] }.clearSticky, [])) cfg)

end Sys2Proof.Machine
end

