-- ==== Sys2Proof/Machine/Nco.lean ====
section
/-! DEFINITION. The oscillator commands, one definition for each opcode-table row (40_nco.md R160 to
R166). -/

namespace Sys2Proof.Machine

/-- NCO.SETFREQ MIX (R160). -/
def execNcoSetfreqMix (s : State) (cfg : Params := params) : StepOutcome := .next (ncoSetfreq .mix s cfg)

/-- NCO.SETFREQ TIM (R160). -/
def execNcoSetfreqTim (s : State) (cfg : Params := params) : StepOutcome := .next (ncoSetfreq .tim s cfg)

/-- NCO.SETFREQ CAR (R160). -/
def execNcoSetfreqCar (s : State) (cfg : Params := params) : StepOutcome := .next (ncoSetfreq .car s cfg)

/-- NCO.SETPHASE MIX (R161). -/
def execNcoSetphaseMix (s : State) (cfg : Params := params) : StepOutcome := .next (ncoSetphase .mix s cfg)

/-- NCO.SETPHASE TIM (R161). -/
def execNcoSetphaseTim (s : State) (cfg : Params := params) : StepOutcome := .next (ncoSetphase .tim s cfg)

/-- NCO.SETPHASE CAR (R161). -/
def execNcoSetphaseCar (s : State) (cfg : Params := params) : StepOutcome := .next (ncoSetphase .car s cfg)

/-- NCO.VALUE MIX (R162). -/
def execNcoValueMix (s : State) (cfg : Params := params) : StepOutcome := .next (ncoValue .mix s cfg)

/-- NCO.VALUE TIM (R162). -/
def execNcoValueTim (s : State) (cfg : Params := params) : StepOutcome := .next (ncoValue .tim s cfg)

/-- NCO.VALUE CAR (R162). -/
def execNcoValueCar (s : State) (cfg : Params := params) : StepOutcome := .next (ncoValue .car s cfg)

/-- NCO.ADVANCE MIX (R163). -/
def execNcoAdvanceMix (s : State) (cfg : Params := params) : StepOutcome := .next (ncoAdvance .mix s cfg)

/-- NCO.ADVANCE TIM (R163). -/
def execNcoAdvanceTim (s : State) (cfg : Params := params) : StepOutcome := .next (ncoAdvance .tim s cfg)

/-- NCO.ADVANCE CAR (R163). -/
def execNcoAdvanceCar (s : State) (cfg : Params := params) : StepOutcome := .next (ncoAdvance .car s cfg)

/-- NCO.ADVFRAC MIX (R164). -/
def execNcoAdvfracMix (s : State) (cfg : Params := params) : StepOutcome := .next (ncoAdvfrac .mix s cfg)

/-- NCO.ADVFRAC TIM (R164). -/
def execNcoAdvfracTim (s : State) (cfg : Params := params) : StepOutcome := .next (ncoAdvfrac .tim s cfg)

/-- NCO.ADVFRAC CAR (R164). -/
def execNcoAdvfracCar (s : State) (cfg : Params := params) : StepOutcome := .next (ncoAdvfrac .car s cfg)

/-- NCO.SETPOINT MIX (R165). -/
def execNcoSetpointMix (s : State) (cfg : Params := params) : StepOutcome := .next (ncoSetpoint .mix s cfg)

/-- NCO.SETPOINT TIM (R165). -/
def execNcoSetpointTim (s : State) (cfg : Params := params) : StepOutcome := .next (ncoSetpoint .tim s cfg)

/-- NCO.SETPOINT CAR (R165). -/
def execNcoSetpointCar (s : State) (cfg : Params := params) : StepOutcome := .next (ncoSetpoint .car s cfg)

/-- NCO.PASSED MIX (R166). -/
def execNcoPassedMix (s : State) (cfg : Params := params) : StepOutcome := .next (ncoPassed .mix s cfg)

/-- NCO.PASSED TIM (R166). -/
def execNcoPassedTim (s : State) (cfg : Params := params) : StepOutcome := .next (ncoPassed .tim s cfg)

/-- NCO.PASSED CAR (R166). -/
def execNcoPassedCar (s : State) (cfg : Params := params) : StepOutcome := .next (ncoPassed .car s cfg)

end Sys2Proof.Machine
end

