-- ==== Sys2Proof/Machine/UnitCommands.lean ====
section
/-! DEFINITION. The filter, quantizer and slicer commands, one definition for each opcode-table row
(41_filters.md R191, R196, R207, R212, R217; 44_quality_softbits.md R323, R337). -/

namespace Sys2Proof.Machine

/-- DL.PUSH DL_TIM (R191). -/
def execDlPushDlTim (s : State) (cfg : Params := params) : StepOutcome := .next (dlPushTim s cfg)

/-- DL.PUSH DL_SYM (R191). -/
def execDlPushDlSym (s : State) (cfg : Params := params) : StepOutcome := .next (dlPushSym s cfg)

/-- MF.PUSH (R212). -/
def execMfPush (s : State) (cfg : Params := params) : StepOutcome := .next (mfPush s cfg)

/-- EMA.PUSH BT_S (R196). -/
def execEmaPushBtS (s : State) (cfg : Params := params) : StepOutcome := .next (emaPush .btS s cfg)

/-- EMA.PUSH BT_L (R196). -/
def execEmaPushBtL (s : State) (cfg : Params := params) : StepOutcome := .next (emaPush .btL s cfg)

/-- EMA.PUSH QG_MSE: the state is the MSE register, and the gate does not run (R196). -/
def execEmaPushQgMse (s : State) (cfg : Params := params) : StepOutcome := .next (emaPush .qgMse s cfg)

/-- EMA.PUSH TED: the state is TED_Y (R196). -/
def execEmaPushTed (s : State) (cfg : Params := params) : StepOutcome := .next (emaPush .ted s cfg)

/-- RES.PUSH (R217). -/
def execResPush (s : State) (cfg : Params := params) : StepOutcome := .next (resPush s cfg)

/-- AGC.PUSH (R207). -/
def execAgcPush (s : State) (cfg : Params := params) : StepOutcome := .next (agcPush s cfg)

/-- SB.QUANT (R337). -/
def execSbQuant (s : State) (cfg : Params := params) : StepOutcome := .next (sbQuant s cfg)

/-- QG.SLICE (R323). -/
def execQgSlice (s : State) (cfg : Params := params) : StepOutcome := .next (qgSlice s cfg)

end Sys2Proof.Machine
end

