-- ==== Sys2Proof/Machine/Sample.lean ====
section
/-! DEFINITION. SAMPLE, the one operation of format S (45_sample_pipeline.md R350). -/

namespace Sys2Proof.Machine

/-- SAMPLE with the parts i and q of the word written (R350). -/
def execSample (i q : Int) (s : State) (cfg : Params := params) : StepOutcome := .next (runSample i q s cfg)

end Sys2Proof.Machine
end

