-- ==== Sys2Proof/Machine/Dispatch.lean ====
section
/-! DEFINITION. The dispatch of an instruction to its meaning: one arm for each constructor. -/

namespace Sys2Proof.Machine

def exec (i : Instr) (s : State) : Host.Outcome State Fault Refusal :=
  match i with
  | .nop => Sys2Proof.Machine.execNop s
  | .apply => Sys2Proof.Machine.execApply s
  | .reset => Sys2Proof.Machine.execReset s
  | .evFlush => Sys2Proof.Machine.execEvFlush s
  | .ncoSetfreqMix => Sys2Proof.Machine.execNcoSetfreqMix s
  | .ncoSetfreqTim => Sys2Proof.Machine.execNcoSetfreqTim s
  | .ncoSetfreqCar => Sys2Proof.Machine.execNcoSetfreqCar s
  | .ncoSetphaseMix => Sys2Proof.Machine.execNcoSetphaseMix s
  | .ncoSetphaseTim => Sys2Proof.Machine.execNcoSetphaseTim s
  | .ncoSetphaseCar => Sys2Proof.Machine.execNcoSetphaseCar s
  | .ncoValueMix => Sys2Proof.Machine.execNcoValueMix s
  | .ncoValueTim => Sys2Proof.Machine.execNcoValueTim s
  | .ncoValueCar => Sys2Proof.Machine.execNcoValueCar s
  | .ncoAdvanceMix => Sys2Proof.Machine.execNcoAdvanceMix s
  | .ncoAdvanceTim => Sys2Proof.Machine.execNcoAdvanceTim s
  | .ncoAdvanceCar => Sys2Proof.Machine.execNcoAdvanceCar s
  | .ncoAdvfracMix => Sys2Proof.Machine.execNcoAdvfracMix s
  | .ncoAdvfracTim => Sys2Proof.Machine.execNcoAdvfracTim s
  | .ncoAdvfracCar => Sys2Proof.Machine.execNcoAdvfracCar s
  | .ncoSetpointMix => Sys2Proof.Machine.execNcoSetpointMix s
  | .ncoSetpointTim => Sys2Proof.Machine.execNcoSetpointTim s
  | .ncoSetpointCar => Sys2Proof.Machine.execNcoSetpointCar s
  | .ncoPassedMix => Sys2Proof.Machine.execNcoPassedMix s
  | .ncoPassedTim => Sys2Proof.Machine.execNcoPassedTim s
  | .ncoPassedCar => Sys2Proof.Machine.execNcoPassedCar s
  | .dlPushDlTim => Sys2Proof.Machine.execDlPushDlTim s
  | .dlPushDlSym => Sys2Proof.Machine.execDlPushDlSym s
  | .mfPush => Sys2Proof.Machine.execMfPush s
  | .emaPushBtS => Sys2Proof.Machine.execEmaPushBtS s
  | .emaPushBtL => Sys2Proof.Machine.execEmaPushBtL s
  | .emaPushQgMse => Sys2Proof.Machine.execEmaPushQgMse s
  | .emaPushTed => Sys2Proof.Machine.execEmaPushTed s
  | .resPush => Sys2Proof.Machine.execResPush s
  | .agcPush => Sys2Proof.Machine.execAgcPush s
  | .sbQuant => Sys2Proof.Machine.execSbQuant s
  | .qgSlice => Sys2Proof.Machine.execQgSlice s
  | .sample a b => Sys2Proof.Machine.execSample a b s

end Sys2Proof.Machine
end

