-- ==== Sys2Proof/Machine/Regs.lean ====
section
/-! DEFINITION. The register map (10_state.md R33) and the host's reads and writes of registers
(R34 to R56, R73; 46_control.md R377 to R379; 20_memory.md R80 to R87). Writes to CMD and SAMPLE_IN run an
instruction and stand in Machine/Access.lean. -/

namespace Sys2Proof.Machine

/-- The half of a 64-bit register a word holds: LO at the lower offset (R33, R86). -/
inductive Half where
  | lo
  | hi
deriving DecidableEq, Repr

/-- A 32-bit word of the register map (R33). -/
inductive Reg where
  | id
  | ctrl
  | status
  | err
  | cmd
  | errInfo
  | arg0 (h : Half)
  | arg1 (h : Half)
  | res0 (h : Half)
  | res1 (h : Half)
  | fs (h : Half)
  | fb (h : Half)
  | freqCenter (h : Half)
  | lockBw (h : Half)
  | sigThresh (h : Half)
  | fftPower
  | aFs (h : Half)
  | aFb (h : Half)
  | aFc (h : Half)
  | aLbw (h : Half)
  | aThr (h : Half)
  | aFftp
  | aCtrl
  | sps (h : Half)
  | nmf
  | dsym
  | mse (h : Half)
  | ebno (h : Half)
  | freqEst (h : Half)
  | carrierFreq (h : Half)
  | sampleCnt (h : Half)
  | symbolCnt (h : Half)
  | cd
  | acqPtr
  | sinceLock
  | symSince
  | oscPhase (k : OscId)
  | oscFtw (k : OscId)
  | oscPoint (k : OscId)
  | oscNstat (k : OscId)
  | agcM (h : Half)
  | tedY (h : Half)
  | sampleIn
  | sbCount
  | btSig (h : Half)
  | evWord (n : Fin 8)
  | evPop
  | evCount
deriving DecidableEq, Repr

/-- A 64-bit register's two words: LO at the offset, HI at offset + 4 (R33). -/
def pairAt (off : Nat) (r : Half → Reg) : List (Nat × Reg) := [(off, r .lo), (off + 4, r .hi)]

/-- 0x000-0x03F: identity, control, status, errors, command, operands, results (R33, R87). -/
def controlRegs : List (Nat × Reg) :=
  [(0x000, .id), (0x004, .ctrl), (0x008, .status), (0x00C, .err), (0x010, .cmd), (0x014, .errInfo)] ++
  pairAt 0x020 .arg0 ++ pairAt 0x028 .arg1 ++ pairAt 0x030 .res0 ++ pairAt 0x038 .res1

/-- 0x040-0x07F: pending settings (R33, R87). -/
def pendingRegs : List (Nat × Reg) :=
  pairAt 0x040 .fs ++ pairAt 0x048 .fb ++ pairAt 0x050 .freqCenter ++ pairAt 0x058 .lockBw ++
  pairAt 0x060 .sigThresh ++ [(0x068, .fftPower)]

/-- 0x080-0x0FF: active settings, derived geometry, quality and counters (R33, R87). -/
def activeRegs : List (Nat × Reg) :=
  pairAt 0x080 .aFs ++ pairAt 0x088 .aFb ++ pairAt 0x090 .aFc ++ pairAt 0x098 .aLbw ++ pairAt 0x0A0 .aThr ++
  [(0x0A8, .aFftp), (0x0AC, .aCtrl)] ++ pairAt 0x0B0 .sps ++ [(0x0B8, .nmf), (0x0BC, .dsym)] ++
  pairAt 0x0C0 .mse ++ pairAt 0x0C8 .ebno ++ pairAt 0x0D0 .freqEst ++ pairAt 0x0D8 .carrierFreq ++
  pairAt 0x0E0 .sampleCnt ++ pairAt 0x0E8 .symbolCnt ++
  [(0x0F0, .cd), (0x0F4, .acqPtr), (0x0F8, .sinceLock), (0x0FC, .symSince)]

/-- The four registers of the oscillator at a base offset (R50). -/
def oscRegs (off : Nat) (k : OscId) : List (Nat × Reg) :=
  [(off, .oscPhase k), (off + 4, .oscFtw k), (off + 8, .oscPoint k), (off + 12, .oscNstat k)]

/-- 0x100-0x14F: the oscillators, at 0x100 + 0x10·k, the datapath views and the sample ingress (R33, R50). -/
def datapathRegs : List (Nat × Reg) :=
  oscRegs 0x100 .mix ++ oscRegs 0x110 .tim ++ oscRegs 0x120 .car ++
  pairAt 0x130 .agcM ++ pairAt 0x138 .tedY ++ [(0x140, .sampleIn), (0x144, .sbCount)] ++ pairAt 0x148 .btSig

/-- 0x150-0x177: the event FIFO (R33, R87). -/
def eventRegs : List (Nat × Reg) :=
  [(0x150, .evWord 0), (0x154, .evWord 1), (0x158, .evWord 2), (0x15C, .evWord 3), (0x160, .evWord 4),
    (0x164, .evWord 5), (0x168, .evWord 6), (0x16C, .evWord 7), (0x170, .evPop), (0x174, .evCount)]

/-- The register map of R33. -/
def regMap : List (Nat × Reg) := controlRegs ++ pendingRegs ++ activeRegs ++ datapathRegs ++ eventRegs

/-- The register at an aligned offset; an offset not in the map is reserved (R73, R87). -/
def regAt (off : Nat) : Option Reg := (regMap.find? fun p => p.1 == off).map Prod.snd

/-- A bus address as an offset in the window at BLOCK_BASE (R80). -/
def windowOffset (addr : Nat) (cfg : Params := params) : Option Nat :=
  if cfg.blockBase ≤ addr ∧ addr < cfg.blockBase + 0x1000 then some (addr - cfg.blockBase) else none

/-- A host access at a bus address, where the address lies in the window (R14, R80). -/
def Access.atAddress (kind : AccessKind) (width : Width) (addr : Nat) (cfg : Params := params) : Option Access :=
  (windowOffset addr cfg).map fun off => { kind := kind, width := width, off := off }

/-- The access codes of R33. STATUS is RO with two W1C bits. -/
inductive AccessCode where
  | rw
  | ro
  | wo
  | w1c
deriving DecidableEq, Repr

/-- The access code of each register (R33). -/
def Reg.code (r : Reg) : AccessCode :=
  match r with
  | .ctrl | .arg0 _ | .arg1 _ | .fs _ | .fb _ | .freqCenter _ | .lockBw _ | .sigThresh _ | .fftPower
  | .oscPhase _ | .oscFtw _ | .oscPoint _ => .rw
  | .cmd | .sampleIn | .evPop => .wo
  | .status => .w1c
  | .id | .err | .errInfo | .res0 _ | .res1 _ | .aFs _ | .aFb _ | .aFc _ | .aLbw _ | .aThr _ | .aFftp | .aCtrl
  | .sps _ | .nmf | .dsym | .mse _ | .ebno _ | .freqEst _ | .carrierFreq _ | .sampleCnt _ | .symbolCnt _
  | .cd | .acqPtr | .sinceLock | .symSince | .oscNstat _ | .agcM _ | .tedY _ | .sbCount | .btSig _ | .evWord _
  | .evCount => .ro

/-- A half of a 64-bit value. -/
def halfOf (x : DWord) (h : Half) : Word :=
  match h with
  | .lo => x.extractLsb' 0 32
  | .hi => x.extractLsb' 32 32

/-- A half of a real register. -/
def halfWord (x : F64) (h : Half) : Word := halfOf x.bits h

/-- A real register with one of its words replaced; the pattern is stored unchecked (R42, R377). -/
def withHalf (x : F64) (h : Half) (v : Word) : F64 :=
  match h with
  | .lo => ⟨x.hi32 ++ v⟩
  | .hi => ⟨v ++ x.lo32⟩

/-- Word n of a record (R68). -/
def EvRecord.word (e : EvRecord) (n : Fin 8) : Word :=
  match n with
  | 0 => e.w0
  | 1 => e.w1
  | 2 => e.w2
  | 3 => e.w3
  | 4 => e.w4
  | 5 => e.w5
  | 6 => e.w6
  | 7 => e.w7

/-- A count as a u32 register shows it. -/
def countWord (n : Nat) : Word := BitVec.ofNat 32 n

/-- ID: ASCII "NCO" and the command-set version 1 (R35). -/
def idWord : Word := 0x4E434F01

/-- The value of a register (R34 to R56, R378); a WO register reads 0 (R33). -/
def readReg (s : State) (r : Reg) : Word :=
  match r with
  | .id => idWord
  | .ctrl => s.ctrl.zeroExtend 32
  | .status => s.statusWord
  | .err => s.err.zeroExtend 32
  | .cmd => 0
  | .errInfo => s.errInfo
  | .arg0 h => halfWord s.arg0 h
  | .arg1 h => halfWord s.arg1 h
  | .res0 h => halfWord s.res0 h
  | .res1 h => halfWord s.res1 h
  | .fs h => halfWord s.pend.fs h
  | .fb h => halfWord s.pend.fb h
  | .freqCenter h => halfWord s.pend.freqCenter h
  | .lockBw h => halfWord s.pend.lockBw h
  | .sigThresh h => halfWord s.pend.sigThresh h
  | .fftPower => s.pend.fftPower
  | .aFs h => halfWord s.act.fs h
  | .aFb h => halfWord s.act.fb h
  | .aFc h => halfWord s.act.fc h
  | .aLbw h => halfWord s.act.lbw h
  | .aThr h => halfWord s.act.thr h
  | .aFftp => countWord s.act.fftp
  | .aCtrl => s.act.ctrl.zeroExtend 32
  | .sps h => halfWord s.dp.sps h
  | .nmf => countWord s.dp.nmf
  | .dsym => countWord s.dp.dsym
  | .mse h => halfWord s.dp.qgMse.y h
  | .ebno h => halfWord s.dp.ebno h
  | .freqEst h => halfWord s.dp.freqEst h
  | .carrierFreq h => halfWord s.dp.gate.carrier h
  | .sampleCnt h => halfOf s.dp.sampleCnt h
  | .symbolCnt h => halfOf s.dp.symbolCnt h
  | .cd => s.dp.gate.cd
  | .acqPtr => countWord s.dp.acq.ptr
  | .sinceLock => s.dp.gate.sinceLock
  | .symSince => s.dp.gate.symSince
  | .oscPhase k => (s.osc k).phase
  | .oscFtw k => (s.osc k).ftw
  | .oscPoint k => (s.osc k).point
  | .oscNstat k => (s.osc k).nstat
  | .agcM h => halfWord s.dp.agc.m h
  | .tedY h => halfWord s.dp.ted.y h
  | .sampleIn => 0
  | .sbCount => countWord s.dp.gate.sb.length
  | .btSig h => halfWord s.dp.acq.bt1 h
  | .evWord n => (s.fifo.head?.map fun e => e.word n).getD 0
  | .evPop => 0
  | .evCount => countWord s.evCount

/-- A 32-bit read of an aligned offset; a reserved one reads 0 (R73). -/
def readWord (s : State) (off : Nat) : Word := ((regAt off).map (readReg s)).getD 0

/-- A write of v to a register other than CMD and SAMPLE_IN, whose writes run an instruction
(R377): RO registers ignore it (R73). -/
def writeReg (s : State) (r : Reg) (v : Word) : State :=
  match r with
  | .ctrl => { s with ctrl := v.extractLsb' 0 4 }
  | .status => s.writeStatus v
  | .arg0 h => { s with arg0 := withHalf s.arg0 h v }
  | .arg1 h => { s with arg1 := withHalf s.arg1 h v }
  | .fs h => { s with pend.fs := withHalf s.pend.fs h v }
  | .fb h => { s with pend.fb := withHalf s.pend.fb h v }
  | .freqCenter h => { s with pend.freqCenter := withHalf s.pend.freqCenter h v }
  | .lockBw h => { s with pend.lockBw := withHalf s.pend.lockBw h v }
  | .sigThresh h => { s with pend.sigThresh := withHalf s.pend.sigThresh h v }
  | .fftPower => { s with pend.fftPower := v }
  | .oscPhase k => s.setOsc k ((s.osc k).writePhase v)
  | .oscFtw k => s.setOsc k ((s.osc k).writeFtw v)
  | .oscPoint k => s.setOsc k ((s.osc k).writePoint v)
  | .evPop => s.popEvent
  | .cmd | .sampleIn => s
  | .id | .err | .errInfo | .res0 _ | .res1 _ | .aFs _ | .aFb _ | .aFc _ | .aLbw _ | .aThr _ | .aFftp | .aCtrl
  | .sps _ | .nmf | .dsym | .mse _ | .ebno _ | .freqEst _ | .carrierFreq _ | .sampleCnt _ | .symbolCnt _
  | .cd | .acqPtr | .sinceLock | .symSince | .oscNstat _ | .agcM _ | .tedY _ | .sbCount | .btSig _ | .evWord _
  | .evCount => s

end Sys2Proof.Machine
end

