-- ==== Sys2Proof/Machine/Access.lean ====
section
/-! DEFINITION. One host access taken to completion (00_scope.md R10; 20_memory.md R83 to R90;
60_exceptions.md R404, R405), and the fetch: what a write of CMD or SAMPLE_IN decodes to (30_encoding.md
R111, R116). -/

namespace Sys2Proof.Machine

/-- The offset of CMD (R33). -/
def cmdOffset : Nat := 0x010

/-- The offset of SAMPLE_IN (R33). -/
def sampleInOffset : Nat := 0x140

/-- The offset of EV_POP (R33). -/
def evPopOffset : Nat := 0x170

/-- The register that the port's words are written to (R110, R111). -/
def portOffset (p : Port) : Nat :=
  match p with
  | .cmd => cmdOffset
  | .sampleIn => sampleInOffset

/-- 32 bits wide and 4-byte aligned (R83). -/
def Access.aligned32 (a : Access) : Bool := a.width == .w32 && a.off % 4 == 0

/-- The three kinds of access accepted while FAULT = 1: aligned reads, aligned EV_POP writes, and the
write of the RESET word to CMD (R404). -/
def Access.acceptedWhileFaulted (a : Access) : Bool :=
  a.aligned32 &&
    match a.kind with
    | .read => true
    | .write v => a.off == evPopOffset || (a.off == cmdOffset && v == cmdWord 0x02 0)

/-- What an access that reads nothing returns: 0 to a read, nothing to a write (R83, R404). -/
def Access.nullResp (a : Access) : Option Word :=
  match a.kind with
  | .read => some 0
  | .write _ => none

/-- A write of w to CMD or SAMPLE_IN: the decoded instruction runs; an illegal word is ILLEGAL_CMD (R115,
R116). -/
def runWord (p : Port) (w : Word) (s : State) (run : Instr → State → StepOutcome := exec) (cfg : Params := params) :
    StepOutcome :=
  match decode p w with
  | .ok i => run i s
  | .error _ => .next (raiseFault .illegalCmd w s cfg)

/-- An aligned 32-bit write (R377): CMD and SAMPLE_IN run an instruction, a reserved offset ignores it. -/
def writeWord (off : Nat) (v : Word) (s : State) (run : Instr → State → StepOutcome := exec) (cfg : Params := params) :
    StepOutcome :=
  match regAt off with
  | some .cmd => runWord .cmd v s run cfg
  | some .sampleIn => runWord .sampleIn v s run cfg
  | some r => .next (writeReg s r v)
  | none => .next s

/-- One access, with the checks in the order of R405: refusal while faulted, then BUS, then the read
or the write. A read changes no state of the block (R85). -/
def takeAccess (a : Access) (s : State) (run : Instr → State → StepOutcome := exec) (cfg : Params := params) :
    StepOutcome :=
  if s.fault && !a.acceptedWhileFaulted then .next (s.respond a.nullResp)
  else if !a.aligned32 then .next ((raiseFault .bus (BitVec.ofNat 32 a.off) s cfg).respond a.nullResp)
  else match a.kind with
    | .read => .next (s.respond (some (readWord s a.off)))
    | .write v => writeWord a.off v s run cfg

/-- One step of a block that runs instructions by `run`: it takes the host's oldest access (R10, R31). With none pending
nothing happens (R10, R435; log 3); an access outside the window is not the block's (R80; log 4). -/
def stepBy (run : Instr → State → StepOutcome) (cfg : Params) (s : State) : StepOutcome :=
  match s.bus.pending with
  | [] => .next s
  | a :: rest =>
    if a.off < 0x1000 then takeAccess a (s.takeAccess rest) run cfg else .fault .outsideWindow

/-- The write of an instruction's word to its port (R110, R111). -/
def Access.ofWord (p : Port) (w : Word) : Access := { kind := .write w, width := .w32, off := portOffset p }

end Sys2Proof.Machine
end

