-- ==== Sys2Proof/Machine/Step.lean ====
section
/-! DEFINITION. One step of the machine: the host's oldest access (00_scope.md R10, R31). -/

namespace Sys2Proof.Machine

/-- One host access of this hardware, whose instructions mean what `exec` says (R10, R31). -/
def step (s : State) : Host.Outcome State Fault Refusal := stepBy exec params s

/-- `s` with the write of an opcode-table row's word as the host's next access (logs 2, 17). -/
def State.withFetchWord (s : State) (nbits w : Nat) : State :=
  { s with
    bus.pending := Access.ofWord (tablePort nbits) (BitVec.ofNat 32 (w % 2 ^ nbits)) :: s.bus.pending }

end Sys2Proof.Machine
end

