-- ==== Sys2Proof/Machine/Program.lean ====
section
/-! DEFINITION. Programs for the block as sequences of bus operations (30_encoding.md R119, R120): what each
line of a program stands for, as host accesses. The text of a line (mnemonics, number formats, comments) is not part
of the block. -/

namespace Sys2Proof.Machine

/-- One line of a program: the two base forms of R119 and the pseudo-instructions of R120. A real operand stands as its
binary64 encoding. -/
inductive ProgramLine where
  /-- `WR off, v` -/
  | wr (off : Nat) (v : Word)
  /-- `RD off` -/
  | rd (off : Nat)
  /-- `<mnemonic> <unit>`, and `SAMPLE i, q` -/
  | run (i : Instr)
  /-- `SETA0 x` -/
  | seta0 (x : F64)
  /-- `SETA1 x` -/
  | seta1 (x : F64)
  /-- `SET64 off, x` -/
  | set64 (off : Nat) (x : F64)
  /-- `GET64 off` -/
  | get64 (off : Nat)
  /-- `POP` -/
  | pop
  /-- `W1C m` -/
  | w1c (m : Word)
deriving DecidableEq, Repr

/-- `WR off, v` as an access: 32 bits wide (R119). -/
def wrAccess (off : Nat) (v : Word) : Access := { kind := .write v, width := .w32, off := off }

/-- `RD off` as an access: 32 bits wide (R119). -/
def rdAccess (off : Nat) : Access := { kind := .read, width := .w32, off := off }

/-- The accesses of a line, in order; a line of two accesses is not atomic (R120). -/
def ProgramLine.accesses (l : ProgramLine) : List Access :=
  match l with
  | .wr off v => [wrAccess off v]
  | .rd off => [rdAccess off]
  | .run i => [Access.ofWord (encode i).1 (encode i).2]
  | .seta0 x => [wrAccess 0x020 x.lo32, wrAccess 0x024 x.hi32]
  | .seta1 x => [wrAccess 0x028 x.lo32, wrAccess 0x02C x.hi32]
  | .set64 off x => [wrAccess off x.lo32, wrAccess (off + 4) x.hi32]
  | .get64 off => [rdAccess off, rdAccess (off + 4)]
  | .pop => [wrAccess 0x170 0]
  | .w1c m => [wrAccess 0x008 m]

/-- `s` with a program as the host's next accesses (log 2). -/
def State.withProgram (s : State) (p : List ProgramLine) : State :=
  { s with bus.pending := p.flatMap ProgramLine.accesses ++ s.bus.pending }

end Sys2Proof.Machine
end

