-- ==== Sys2Proof/Machine/Hunter.lean ====
section
/-! DEFINITION. The frequency hunter (60_exceptions.md R443 to R447) and its coupling to the block (R448): host software
driven by the block's events, outside the block's State (00_scope.md R7; log 18). -/

namespace Sys2Proof.Machine

/-- The hunter's parameters; maxTries is a positive integer (R443). -/
structure HunterParams where
  minFreq : F64
  maxFreq : F64
  bandwidth : F64
  maxTries : Nat
deriving DecidableEq, Repr

/-- The hunter's state (R443). -/
structure Hunter where
  counter : Nat
  fullscans : Nat
  dcdPrev : Bool
deriving DecidableEq, Repr

/-- The hunter's outputs (R443). -/
inductive HunterOut where
  | newFreqCenter (f : F64)
  | scanExhausted
deriving DecidableEq, Repr

/-- A logged edge of DCD (R447). -/
inductive DcdEdge where
  | rising
  | falling
deriving DecidableEq, Repr

/-- The hunter at start (R443). -/
def Hunter.start : Hunter := { counter := 0, fullscans := 0, dcdPrev := false }

/-- The candidate at a counter that is a multiple of maxTries: minFreq + (bandwidth / 2.0) × (counter /
maxTries) (R444). -/
def HunterParams.candidate (p : HunterParams) (counter : Nat) : F64 :=
  p.minFreq.add ((p.bandwidth.div F64.two).mul (F64.ofNat (counter / p.maxTries)))

/-- absent() (R444). -/
def Hunter.absent (p : HunterParams) (h : Hunter) : Hunter × List HunterOut :=
  let c := h.counter + 1
  if c % p.maxTries = 0 then
    if F64.lt (p.maxFreq.sub (p.bandwidth.div F64.two)) (p.candidate c) then
      ({ h with counter := 0, fullscans := h.fullscans + 1 }, [.newFreqCenter F64.zero, .scanExhausted])
    else ({ h with counter := c }, [.newFreqCenter (p.candidate c)])
  else ({ h with counter := c }, [])

/-- present() (R445). -/
def Hunter.present (h : Hunter) : Hunter × List HunterOut := ({ h with counter := 0 }, [])

/-- override(f) emits the centre and changes no state (R446). -/
def Hunter.override (h : Hunter) (f : F64) : Hunter × List HunterOut := (h, [.newFreqCenter f])

/-- Edge tracking on an update with the DCD value d, independent of the scan (R447). -/
def Hunter.track (h : Hunter) (d : Bool) : Hunter × Option DcdEdge :=
  ({ h with dcdPrev := d }, if h.dcdPrev = d then none else some (if d then .rising else .falling))

/-- What one update answers: the hunter after it, its outputs, and the logged edge (R443, R447). -/
structure HunterReply where
  hunter : Hunter
  outs : List HunterOut
  edge : Option DcdEdge
deriving DecidableEq, Repr

/-- One update with the new DCD value d: absent() where d = 0 and present() where d = 1, and the edge tracking, which is
independent of the scan (R444, R445, R447). -/
def Hunter.update (p : HunterParams) (h : Hunter) (d : Bool) : HunterReply :=
  let scan := if d then h.present else h.absent p
  let edge := scan.1.track d
  { hunter := edge.1, outs := scan.2, edge := edge.2 }

/-! ### The coupling to the block (R448) -/

/-- What a list of updates answers, in order. -/
structure HunterRun where
  hunter : Hunter
  outs : List HunterOut
  edges : List DcdEdge
deriving DecidableEq, Repr

/-- The updates of a list of DCD values, one after another. -/
def Hunter.updates (p : HunterParams) (h : Hunter) : List Bool → HunterRun
  | [] => { hunter := h, outs := [], edges := [] }
  | d :: ds =>
    let u := h.update p d
    let r := u.hunter.updates p ds
    { hunter := r.hunter, outs := u.outs ++ r.outs, edges := u.edge.toList ++ r.edges }

/-- The update an event record feeds: present() for SIG_PRESENT (type 1), absent() for SIG_ABSENT (type 2), none for
any other (R69, R448). -/
def EvRecord.hunterUpdate (e : EvRecord) : Option Bool :=
  match e.w0.toNat % 256 with
  | 1 => some true
  | 2 => some false
  | _ => none

/-- The updates of one processing cycle: those of the records read, and one absent() while STATUS.DCD = 0, which a
SIG_ABSENT of the cycle already is (R448; log 18). -/
def cycleUpdates (records : List EvRecord) (dcd : Bool) : List Bool :=
  let fed := records.filterMap EvRecord.hunterUpdate
  if dcd || fed.contains false then fed else fed ++ [false]

/-- Carrying out an output: newFreqCenter(f) is f written to FREQ_CENTER, then APPLY; scanExhausted() is a host
liberty and writes nothing (R448). -/
def HunterOut.lines (o : HunterOut) : List ProgramLine :=
  match o with
  | .newFreqCenter f => [.set64 0x050 f, .run .apply]
  | .scanExhausted => []

/-- One processing cycle of the host at the block's state s: it consumes every record of the FIFO (R379), feeds the
hunter, and makes the accesses that carry out its outputs (R448). -/
def Hunter.cycle (p : HunterParams) (h : Hunter) (s : State) : HunterRun × State :=
  let r := h.updates p (cycleUpdates s.fifo s.dcd)
  (r, s.withProgram (s.fifo.map (fun _ => ProgramLine.pop) ++ r.outs.flatMap HunterOut.lines))

end Sys2Proof.Machine
end

