-- ==== Sys2Proof/Machine/ReferenceDft.lean ====
section
/-! DEFINITION. The reference transform of 00_scope.md R25, which computed the vectors of
95_test_vectors.md: recursive radix-2 decimation in time. The machine's transforms are the
configuration functions `Config.dft` and `Config.idft` (log 7); this is one instance of them. -/

namespace Sys2Proof.Machine

/-- The values of even index. -/
def evens : List Cplx → List Cplx
  | [] => []
  | [x] => [x]
  | x :: _ :: r => x :: evens r

/-- The values of odd index. -/
def odds (x : List Cplx) : List Cplx := evens x.tail

/-- The twiddle for output k of a size-n stage: conj(cis(k·2^32/n)) forward, cis(k·2^32/n) inverse (R25). -/
def twiddle (inverse : Bool) (n k : Nat) : Cplx :=
  let c := cis (BitVec.ofNat 32 (k * 2 ^ 32 / n))
  if inverse then c else c.conj

/-- The butterflies of one stage: E[k] + t×O[k], then E[k] − t×O[k] (R25). -/
def butterflies (inverse : Bool) (e o : List Cplx) : List Cplx :=
  let t := o.mapIdx fun k x => (twiddle inverse (2 * o.length) k).mul x
  e.zipWith Cplx.add t ++ e.zipWith Cplx.sub t

/-- The transform of a list of 2^k values, without the inverse's division (R25). -/
def radix2 (inverse : Bool) : Nat → List Cplx → List Cplx
  | 0, x => x
  | k + 1, x => butterflies inverse (radix2 inverse k (evens x)) (radix2 inverse k (odds x))

/-- The reference DFT of 2^k values (R25). -/
def refDft (k : Nat) (x : List Cplx) : List Cplx := radix2 false k x

/-- The reference inverse DFT: each output divided by N after the transform (R25). -/
def refIdft (k : Nat) (x : List Cplx) : List Cplx :=
  (radix2 true k x).map fun c => ⟨c.re.div (F64.ofNat (2 ^ k)), c.im.div (F64.ofNat (2 ^ k))⟩

end Sys2Proof.Machine
end

