-- ==== Sys2Proof/Safety.lean ====
section
/-! DEFINITION. What statements are made about: the value of a binary64 encoding, the named properties
of the configuration functions (00_scope.md R17, R25), the shape and the finiteness of the state, the
events of a step, and runs of the primitives. -/

namespace Sys2Proof

/-! ### The value of a binary64 encoding (00_scope.md R16) -/

/-- The real number that a finite binary64 value stands for; every one is rational. -/
def F64.toRat (x : F64) : ℚ := (if x.sign then -1 else 1) * (x.mant : ℚ) * (2 : ℚ) ^ x.expo

/-- The same as a real number. -/
noncomputable def F64.toReal (x : F64) : ℝ := (x.toRat : ℝ)

/-- `r` is the binary64 value nearest to the exact result `v`, ties to the even significand (R16): no finite
value is nearer, and of two that are equally near the one with an even significand is taken. -/
def F64.NearestEven (v : ℝ) (r : F64) : Prop :=
  r.isFinite = true ∧ ∀ z : F64, z.isFinite = true →
    |r.toReal - v| ≤ |z.toReal - v| ∧ (|r.toReal - v| = |z.toReal - v| → r.toReal = z.toReal ∨ r.mant % 2 = 0)

/-- The overflow threshold of round to nearest: 2^1024 − 2^970, half a unit of the last place above the
largest finite value (R16). -/
noncomputable def F64.overflowBound : ℝ := 2 ^ 1024 - 2 ^ 970

/-- `r` is the correctly rounded result of an operation whose exact result is `v`: the nearest value, or the
infinity of `v`'s sign from the overflow threshold on (R16). -/
def F64.Rounds (v : ℝ) (r : F64) : Prop :=
  (|v| < overflowBound → NearestEven v r) ∧
  (overflowBound ≤ v → r = inf) ∧ (v ≤ -overflowBound → r = inf.neg)

/-! ### The named properties of R17 and R25 -/

namespace Config

/-- P1, last clause: tanh is non-decreasing (R17). Its range and its oddness hold in the model by
construction (Machine/ConfigFns.lean). -/
def TanhMonotone : Prop :=
  ∀ x y : F64, x.isFinite = true → y.isFinite = true → F64.le x y = true → F64.le (tanh x) (tanh y) = true

/-- One unit in the last place of a real number: 2^(e − 52) for the e with 2^e ≤ |v| < 2^(e+1), and at
least 2^-1074. -/
noncomputable def ulp (v : ℝ) : ℝ := if v = 0 then 2 ^ (-1074 : ℤ) else 2 ^ max (Int.log 2 |v| - 52) (-1074)

/-- P3: each function is within one unit in the last place of the exact real value, for finite
arguments (R17). A premise that no statement of this package needs. -/
def WithinUlp (f : F64 → F64) (exact : ℝ → ℝ) : Prop :=
  ∀ x : F64, x.isFinite = true →
    (f x).isFinite = true ∧ |(f x).toReal - exact x.toReal| ≤ ulp (exact x.toReal)

/-- A complex binary64 value as a complex number. -/
noncomputable def toComplex (z : Cplx) : ℂ := ⟨z.re.toReal, z.im.toReal⟩

/-- Value j of a list of complex binary64 values, as a complex number. -/
noncomputable def valueAt (x : List Cplx) (j : ℕ) : ℂ := toComplex (x.getD j Cplx.zero)

/-- The exact `DFT_N`, unnormalised: X[k] = Σ_j x[j]·e^(−2πi·kj/N) (R25). -/
noncomputable def exactDft (n : ℕ) (x : List Cplx) (k : ℕ) : ℂ :=
  ∑ j ∈ Finset.range n, valueAt x j * Complex.exp (-2 * Real.pi * Complex.I * (k * j : ℕ) / n)

/-- The exact `IDFT_N`, divided by N: x[j] = (1/N)·Σ_k X[k]·e^(+2πi·kj/N) (R25). -/
noncomputable def exactIdft (n : ℕ) (x : List Cplx) (j : ℕ) : ℂ :=
  (∑ k ∈ Finset.range n, valueAt x k * Complex.exp (2 * Real.pi * Complex.I * (k * j : ℕ) / n)) / n

/-- A transform is within the relative tolerance `tol` of an exact one: for every power of two n and every list of n
finite values, each output differs from its exact value by at most `tol` times the largest exact output (R25; DEDUCED, log 7). -/
def TransformWithin (f : ℕ → List Cplx → ℕ → Cplx) (exact : ℕ → List Cplx → ℕ → ℂ) (tol : ℝ) : Prop :=
  ∀ (m : ℕ) (x : List Cplx) (k : ℕ), x.length = 2 ^ m → k < 2 ^ m → (∀ z ∈ x, z.isFinite = true) →
    ∃ j < 2 ^ m, ‖toComplex (f (2 ^ m) x k) - exact (2 ^ m) x k‖ ≤ tol * ‖exact (2 ^ m) x j‖

/-- The one property of `DFT_N` a certificate may assume (R25). -/
def DftWithin (tol : ℝ) : Prop := TransformWithin dft exactDft tol

/-- The one property of `IDFT_N` a certificate may assume (R25). -/
def IdftWithin (tol : ℝ) : Prop := TransformWithin idft exactIdft tol

end Config

namespace Machine

/-! ### The shape of the state (10_state.md section 3) -/

/-- Every buffer has the length its rule gives it, and every pointer lies inside (R55, R59, R60, R63, R64). -/
abbrev Datapath.Shaped (d : Datapath) : Prop :=
  (1 ≤ d.nmf ∧ d.mf.taps.length = d.nmf ∧ d.mf.hr.length = d.nmf ∧ d.mf.hi.length = d.nmf) ∧
  (d.dlTim.buf.length = d.nmf ∧ d.dlTim.ptr < d.nmf) ∧
  (1 ≤ d.dsym ∧ d.dlSym.buf.length = d.dsym ∧ d.dlSym.ptr < d.dsym) ∧
  (1 ≤ d.acq.lb ∧ d.acq.lb ≤ d.acq.nacq ∧ 1 ≤ d.acq.lt ∧ d.acq.lt ≤ d.acq.nacq ∧ d.acq.buf.length = d.acq.lb + d.acq.lt ∧
    d.acq.ptr ≤ d.acq.lb + d.acq.lt ∧ (d.acq.st = .filling → d.acq.ptr < d.acq.lb + d.acq.lt)) ∧
  (d.cont.frame.length = d.cont.nc ∧ d.cont.mags.length = d.cont.nc ∧ d.cont.ptr < d.cont.nc) ∧
  d.gate.sb.length < params.sbBatch ∧ 1 ≤ d.gate.report ∧ 1 ≤ d.gate.qgCd

/-- The state between two accesses, as the rules let it be: a FIFO of at most EV_DEPTH records (R67), buffers
of their lengths (R55 to R64), no Verifying (R38, R249), NC = 2^FFTP with FFTP in its range (R64, R371),
soft elements that are bytes or the sentinel (R338, R339), and FAULT set exactly when ERR holds one of the
codes 1 to 5 (R40, R400). -/
abbrev State.WF (s : State) : Prop :=
  s.fifo.length ≤ params.evDepth ∧ s.dp.Shaped ∧ s.dp.acq.st ≠ .verifying ∧
  (params.fftPowMin ≤ s.act.fftp ∧ s.act.fftp ≤ params.fftPowMax ∧ s.dp.cont.nc = 2 ^ s.act.fftp) ∧
  (∀ x ∈ s.dp.gate.sb, x.toNat ≤ 256) ∧
  (s.err.toNat ≤ 5 ∧ (s.fault = true ↔ s.err ≠ 0))

/-- What the acquisition mode in force says of the other mode's registers: BT_SIG is +0.0 in continuous mode
(R53) and FREQ_EST is +0.0 in burst mode (R47). -/
abbrev State.ModeViews (s : State) : Prop :=
  if s.act.modeCont then s.dp.acq.bt1 = F64.zero ∧ s.dp.acq.bt2 = F64.zero ∧ s.dp.acq.st = .rejected
  else s.dp.freqEst = F64.zero ∧ s.dp.cont.ptr = 0

/-! ### Finiteness (60_exceptions.md R412) -/

/-- The parts of complex cells. -/
def cellReals (l : List Cplx) : List F64 := l.flatMap fun z => [z.re, z.im]

/-- The binary64 fields of the internal state and of the derived registers (R45 to R47, R57 to R65). -/
def Datapath.reals (d : Datapath) : List F64 :=
  [d.sps, d.agc.m, d.agc.alpha, d.res.a1, d.res.a2, d.res.g, d.res.s1, d.res.s2, d.btS.alpha, d.btS.y, d.btL.alpha,
    d.btL.y, d.ted.alpha, d.ted.y, d.qgMse.alpha, d.qgMse.y, d.acq.bt1, d.acq.bt2, d.freqEst, d.gate.zpp.re,
    d.gate.zpp.im, d.gate.carrier, d.ebno] ++
  d.mf.taps ++ d.mf.hr ++ d.mf.hi ++ d.dlTim.buf ++ cellReals d.dlSym.buf ++ cellReals d.acq.buf ++
  cellReals d.cont.frame ++ d.cont.mags

/-- The active settings that are reals (R44). -/
def Active.reals (a : Active) : List F64 := [a.fs, a.fb, a.fc, a.lbw, a.thr]

/-- Every committed binary64 value is finite (R412): the results, the active settings and the internal state.
ARG0, ARG1 and the pending settings hold any pattern (R42, R412). -/
def State.Finite (s : State) : Prop :=
  ∀ x ∈ [s.res0, s.res1] ++ s.act.reals ++ s.dp.reals, x.isFinite = true

/-! ### Events of a step -/

/-- TYPE of a record, W0[7:0] (R68). -/
def EvRecord.type (e : EvRecord) : Nat := e.w0.toNat % 256

/-- The records a step put behind those that were there (R67). -/
def newRecords (old new : State) : List EvRecord := new.fifo.drop old.fifo.length

/-! ### Tables and formulas of the rules -/

/-- The legal words of the control commands, with their instructions (R113). -/
def controlWords : List (Word × Instr) :=
  [(0x00000000#32, .nop), (0x01000000#32, .apply), (0x02000000#32, .reset), (0x03000000#32, .evFlush)]

/-- The legal words of the oscillator commands, with their instructions (R113). -/
def ncoWords : List (Word × Instr) :=
  [(0x10000000#32, .ncoSetfreqMix), (0x10100000#32, .ncoSetfreqTim), (0x10200000#32, .ncoSetfreqCar), (0x11000000#32, .ncoSetphaseMix), (0x11100000#32, .ncoSetphaseTim),
    (0x11200000#32, .ncoSetphaseCar), (0x12000000#32, .ncoValueMix), (0x12100000#32, .ncoValueTim), (0x12200000#32, .ncoValueCar), (0x13000000#32, .ncoAdvanceMix),
    (0x13100000#32, .ncoAdvanceTim), (0x13200000#32, .ncoAdvanceCar), (0x14000000#32, .ncoAdvfracMix), (0x14100000#32, .ncoAdvfracTim), (0x14200000#32, .ncoAdvfracCar),
    (0x15000000#32, .ncoSetpointMix), (0x15100000#32, .ncoSetpointTim), (0x15200000#32, .ncoSetpointCar), (0x16000000#32, .ncoPassedMix), (0x16100000#32, .ncoPassedTim),
    (0x16200000#32, .ncoPassedCar)]

/-- The legal words of the filter, quantizer and slicer commands, with their instructions (R113). -/
def unitWords : List (Word × Instr) :=
  [(0x20000000#32, .dlPushDlTim), (0x20100000#32, .dlPushDlSym), (0x21000000#32, .mfPush), (0x22000000#32, .emaPushBtS), (0x22100000#32, .emaPushBtL),
    (0x22200000#32, .emaPushQgMse), (0x22300000#32, .emaPushTed), (0x23000000#32, .resPush), (0x24000000#32, .agcPush), (0x25000000#32, .sbQuant),
    (0x26000000#32, .qgSlice)]

/-- The 36 legal command words of spec/opcode_table.json with their instructions (R113, R114). -/
def tableWords : List (Word × Instr) := controlWords ++ (ncoWords ++ unitWords)

/-- The offsets of 10_state.md R33 whose word is not 0 after reset, with that word; every other offset of the
window reads 0 (R33, R73, R450). -/
def resetWords : List (Nat × Word) :=
  [(0x000, 0x4E434F01),
    (0x044, 0x40E77000), (0x04C, 0x4092C000), (0x054, 0x409C2000), (0x05C, 0x408C2000), (0x064, 0x3FE00000), (0x068, 12),
    (0x084, 0x40E77000), (0x08C, 0x4092C000), (0x094, 0x409C2000), (0x09C, 0x408C2000), (0x0A4, 0x3FE00000), (0x0A8, 12),
    (0x0B4, 0x40440000), (0x0B8, 80), (0x0BC, 40), (0x0C4, 0x3FF00000), (0x0DC, 0x409C2000), (0x0F8, 0xFFFFFFFF),
    (0x104, 0x0999999A), (0x10C, 1), (0x114, 0x03333333), (0x118, 0x66666666), (0x11C, 1), (0x12C, 1), (0x134, 0x3FF00000)]

/-- The distance forward from `a` to `b` on the cycle of 2^32 words (R151). -/
def forwardDistance (a b : Nat) : Nat := (b + 2 ^ 32 - a) % 2 ^ 32

/-- An oscillator after a forward move by `l`, in closed form (R151): the point is crossed when its distance is
in 1..l, the antipode likewise, and the later of two crossings leaves its mark on `armed`. -/
def Osc.movedForward (o : Osc) (l : Word) : Osc :=
  let dP := forwardDistance o.phase.toNat o.point.toNat
  let dA := forwardDistance o.phase.toNat ((o.point.toNat + 2 ^ 31) % 2 ^ 32)
  let hitP := 1 ≤ dP ∧ dP ≤ l.toNat
  let hitA := 1 ≤ dA ∧ dA ≤ l.toNat
  { phase := BitVec.ofNat 32 (o.phase.toNat + l.toNat)
    ftw := o.ftw
    point := o.point
    armed := if hitP ∧ hitA then decide (dP < dA) else if hitP then false else if hitA then true else o.armed
    latch := o.latch || decide (hitP ∧ (o.armed = true ∨ (hitA ∧ dA < dP))) }

/-- `x × 2^32` as phaseword rounds it to a word (R23). -/
def turnWord (x : F64) : Word := BitVec.ofInt 32 (x.mul ⟨0x41F0000000000000⟩).rne

/-- phaseword(x) does not fault: x is finite and x × 2^32 does not overflow (R23). -/
abbrev Turns (x : F64) : Prop := x.isFinite = true ∧ (x.mul ⟨0x41F0000000000000⟩).isFinite = true

/-- cis(p) as R24 writes it: exact at the four quarter-cycle words, else (cos, sin) of TWO_PI × cycles(p). -/
def phasor (p : Word) : Cplx :=
  if p = 0x00000000 then ⟨⟨0x3FF0000000000000⟩, ⟨0⟩⟩
  else if p = 0x40000000 then ⟨⟨0⟩, ⟨0x3FF0000000000000⟩⟩
  else if p = 0x80000000 then ⟨⟨0xBFF0000000000000⟩, ⟨0⟩⟩
  else if p = 0xC0000000 then ⟨⟨0⟩, ⟨0xBFF0000000000000⟩⟩
  else
    let angle := F64.mul ⟨0x401921FB54442D18⟩ ((F64.ofNat p.toNat).div ⟨0x41F0000000000000⟩)
    ⟨Config.cos angle, Config.sin angle⟩

/-- An oscillator after a nudge by the word d: forward with its crossings below half a cycle, else backward with no event
(R155). -/
def Osc.nudged (o : Osc) (d : Word) : Osc := if d.toNat < 2 ^ 31 then o.movedForward d else { o with phase := o.phase + d }

/-- sat32(v + 1) (R15). -/
def saturated (v : Word) : Word := if v = 0xFFFFFFFF then v else v + 1

/-- A push of a record of type ty with the payload words W1, W2, …, the unused ones 0; EVOVF where the FIFO is full (R67, R68). -/
def pushed (s : State) (ty : BitVec 8) (payload : List Word) : State :=
  if s.fifo.length = 64 then { s with evovf := true }
  else
    let w (n : Nat) : Word := payload.getD (n - 1) 0
    { s with
      fifo := s.fifo ++ [⟨s.evseq.extractLsb' 0 24 ++ ty, w 1, w 2, w 3, w 4, w 5, w 6, w 7⟩]
      evseq := s.evseq + 1 }

/-- sb_push(x): the element joins the buffer, and the twelfth empties it into a SOFT_BATCH, whose word 1 + j holds element
2j in its low half and element 2j + 1 in its high half (R69, R338). -/
def softPushed (s : State) (x : BitVec 16) : State :=
  let sb := s.dp.gate.sb ++ [x]
  if sb.length = 12 then
    pushed { s with dp.gate.sb := [] } 6 ((List.range 6).map fun j => sb.getD (2 * j + 1) 0 ++ sb.getD (2 * j) 0)
  else { s with dp.gate.sb := sb }

/-- The soft byte of a value, with `free` for a NaN: 127.5 + 510.0 × v, held to 0 and 255 and rounded to even (R336; log 11). -/
def softByte (free : BitVec 8) (v : F64) : BitVec 16 :=
  let t := F64.add ⟨0x405FE00000000000⟩ (F64.mul ⟨0x407FE00000000000⟩ v)
  if F64.le ⟨0x406FE00000000000⟩ t then 255
  else if F64.le t ⟨0⟩ then 0
  else if t.isNaN then free.zeroExtend 16
  else BitVec.ofInt 16 t.rne

/-- The timing loop's gain: from 0.06 at a lock to 0.04 once TIM_RAMP symbols have passed (R292). -/
def gainRamp (timRamp : Nat) (symSince : Word) : F64 :=
  let ks : F64 := ⟨0x3FAEB851EB851EB8⟩
  let ke : F64 := ⟨0x3FA47AE147AE147B⟩
  let p := if timRamp = 0 then ⟨0x3FF0000000000000⟩
    else F64.fmin ⟨0x3FF0000000000000⟩ ((F64.ofNat symSince.toNat).div (F64.ofNat timRamp))
  ks.add ((ke.sub ks).mul p)

/-- The AGC's output at the estimate m: the gain 1 / max(m, 1e-4) times z, each part held to ±4.0 (R205). -/
def agcLevelled (m : F64) (z : Cplx) : Cplx :=
  let gn := F64.div ⟨0x3FF0000000000000⟩ (F64.fmax m ⟨0x3F1A36E2EB1C432D⟩)
  let part (x : F64) : F64 := F64.clamp (gn.mul x) ⟨0xC010000000000000⟩ ⟨0x4010000000000000⟩
  ⟨part z.re, part z.im⟩

/-- Step 12 of a sample: since_lock and SAMPLE_CNT count it, and every REPORT samples EBNO takes 10 × log10(1 / max(MSE, 1e-10))
and a QUALITY event carries MSE in W1:W2 and EBNO in W3:W4 (R48, R49, R69, R330, R331, R350). -/
def sampleCounted (s : State) : State :=
  let c := s.dp.sampleCnt + 1
  let mse := s.dp.qgMse.y
  let e := F64.mul ⟨0x4024000000000000⟩ (Config.log10 (F64.div ⟨0x3FF0000000000000⟩ (F64.fmax mse ⟨0x3DDB7CDFD9D7BDBB⟩)))
  let t := { s with dp.sampleCnt := c, dp.gate.sinceLock := saturated s.dp.gate.sinceLock }
  if c.toNat % s.dp.gate.report = 0 then
    pushed { t with dp.ebno := e } 3
      [mse.bits.extractLsb' 0 32, mse.bits.extractLsb' 32 32, e.bits.extractLsb' 0 32, e.bits.extractLsb' 32 32]
  else t

/-- A push on a delay line: the cell at the pointer takes x, and the pointer moves on (R190). -/
def DelayLine.pushed {α : Type} (d : DelayLine α) (x : α) : DelayLine α :=
  { buf := d.buf.set d.ptr x, ptr := (d.ptr + 1) % d.buf.length }

/-- Steps 4 to 9 of a sample, from the mixed sample: carrier correction, matched filter, the two delay lines, the
resonator, the timing error, the gain ramp and TIM's nudge. Answers y, yd, whether a symbol instant is reached, and the next
state; BAD_ARG where the nudge cannot be a phase word (R211, R216, R290 to R294, R301, R350). -/
def trackedByRules (s : State) (xm : Cplx) : Res (Cplx × Cplx × Bool × State) :=
  let d := s.dp
  let xc := Cplx.mulconj xm (phasor d.car.phase)
  let hr := (xc.re :: d.mf.hr).take d.nmf
  let hi := (xc.im :: d.mf.hi).take d.nmf
  let y : Cplx :=
    ⟨(List.zipWith F64.mul d.mf.taps hr).foldl F64.add ⟨0⟩, (List.zipWith F64.mul d.mf.taps hi).foldl F64.add ⟨0⟩⟩
  let u := (y.re.mul y.re).add (y.im.mul y.im)
  let r := ((d.res.g.mul u).add (d.res.a1.mul d.res.s1)).sub (d.res.a2.mul d.res.s2)
  let ct := phasor d.tim.phase
  let et := (d.dlTim.buf.getD d.dlTim.ptr ⟨0⟩).mul (F64.mul ⟨0x4000000000000000⟩ (ct.re.mul ct.im))
  let ef := d.ted.y.add (d.ted.alpha.mul (et.sub d.ted.y))
  let x := ((gainRamp d.timRamp d.gate.symSince).mul ef).neg
  let tim := (d.tim.movedForward d.tim.ftw).nudged (turnWord x)
  if Turns x then
    .ok (y, d.dlSym.buf.getD d.dlSym.ptr ⟨⟨0⟩, ⟨0⟩⟩, tim.latch, { s with dp := { d with
      car := d.car.movedForward d.car.ftw
      mf := { d.mf with hr := hr, hi := hi }
      dlSym := d.dlSym.pushed y
      res := { d.res with s1 := r, s2 := d.res.s1 }
      dlTim := d.dlTim.pushed r
      ted.y := ef
      tim := { tim with latch := false } } })
  else .error .badArg

/-- An accepted sample, step by step as R350 orders it: scaling and AGC, mixing, the acquisition in force, steps 4 to 9, the
symbol logic at a symbol instant, the gate, and the counters with the quality report. The first fault ends it. -/
def sampleByRules (s : State) (i q : Int) : Res State :=
  let z : Cplx := ⟨(F64.ofInt i).div ⟨0x40E0000000000000⟩, (F64.ofInt q).div ⟨0x40E0000000000000⟩⟩
  let m := s.dp.agc.m.add (s.dp.agc.alpha.mul (z.cabs.sub s.dp.agc.m))
  let xm := Cplx.mulconj (agcLevelled m z) (phasor s.dp.mix.phase)
  ({ s with dp.agc.m := m, dp.mix := s.dp.mix.movedForward s.dp.mix.ftw }.acquire xm).bind fun s3 =>
  (trackedByRules s3 xm).bind fun (y, yd, instant, s9) =>
  (if instant then s9.stageSymbol y yd else .ok s9).bind fun s10 =>
  s10.gateStep.bind fun s11 => .ok (sampleCounted s11)

/-- rebuild() as R372 writes it, with the formulas of R45, R62, R204, R210, R215, R244 and R245 and this hardware's parameter values:
every derived and internal field from the active settings alone. -/
def rebuiltByRules (a : Active) : Datapath :=
  let length (x : F64) : Nat := (max 1 x.round).toNat
  let one : F64 := ⟨0x3FF0000000000000⟩
  let two : F64 := ⟨0x4000000000000000⟩
  let sps := a.fs.div a.fb
  let nmf := length (two.mul sps)
  let dsym := length sps
  let segment := min 4096 (length (F64.mul ⟨0x4030000000000000⟩ sps))
  let osc (ftw point : Word) : Osc := { phase := 0, ftw := ftw, point := point, armed := true, latch := false }
  { sps := sps
    nmf := nmf
    dsym := dsym
    mf := {
      taps := (List.range nmf).map fun n =>
        (Config.sin (F64.mul ⟨0x400921FB54442D18⟩ (((F64.ofNat n).add ⟨0x3FE0000000000000⟩).div (F64.ofNat nmf)))).div (two.mul sps)
      hr := List.replicate nmf ⟨0⟩, hi := List.replicate nmf ⟨0⟩ }
    dlSym := { buf := List.replicate dsym ⟨⟨0⟩, ⟨0⟩⟩, ptr := 0 }
    dlTim := { buf := List.replicate nmf ⟨0⟩, ptr := 0 }
    agc := {
      m := one
      alpha := one.sub (Config.pow ⟨0x3F847AE147AE147B⟩
        (one.div (F64.ofNat (length (F64.mul ⟨0x3F947AE147AE147B⟩ a.fs))))) }
    res := {
      a1 := (two.mul ⟨0x3FEFD70A3D70A3D7⟩).mul (Config.cos (F64.mul ⟨0x401921FB54442D18⟩ (a.fb.div a.fs)))
      a2 := F64.mul ⟨0x3FEFD70A3D70A3D7⟩ ⟨0x3FEFD70A3D70A3D7⟩
      g := one.sub ⟨0x3FEFD70A3D70A3D7⟩
      s1 := ⟨0⟩, s2 := ⟨0⟩ }
    btS := { alpha := one.div (F64.fmax one (two.mul sps)), y := ⟨0⟩ }
    btL := { alpha := one.div (F64.fmax one (F64.mul ⟨0x4040000000000000⟩ sps)), y := ⟨0⟩ }
    ted := { alpha := ⟨0x3F947AE147AE147B⟩, y := ⟨0⟩ }
    qgMse := { alpha := ⟨0x3FA999999999999A⟩, y := one }
    mix := osc (turnWord (a.fc.div a.fs)) 0
    tim := osc (turnWord ((a.fb.div two).div a.fs)) (turnWord ⟨0x3FD999999999999A⟩)
    car := osc 0 0
    timRamp := 64
    carFstart := 32
    acq := {
      bt1 := ⟨0⟩, bt2 := ⟨0⟩, armed := true, buf := List.replicate (segment + segment) ⟨⟨0⟩, ⟨0⟩⟩, ptr := 0, st := .rejected
      lb := segment, lt := segment, nacq := 4096, dead := (F64.mul ⟨0x4059000000000000⟩ sps).round.toNat }
    cont := {
      frame := List.replicate (2 ^ a.fftp) ⟨⟨0⟩, ⟨0⟩⟩, ptr := 0, mags := List.replicate (2 ^ a.fftp) ⟨0⟩, settle := 4
      nc := 2 ^ a.fftp }
    freqEst := ⟨0⟩
    gate := {
      st := .noSig, cd := 0, acqEl := 0, sinceLock := 0xFFFFFFFF, symSince := 0, zpp := ⟨⟨0⟩, ⟨0⟩⟩, sb := [], carrier := a.fc
      qgCd := length (F64.mul ⟨0x4050000000000000⟩ sps), qgDelay := (F64.mul ⟨0x4040000000000000⟩ sps).round.toNat
      report := length (F64.mul ⟨0x3FB999999999999A⟩ a.fs) }
    sampleCnt := 0
    symbolCnt := 0
    ebno := ⟨0⟩ }

/-- The matched filter's arm as R211 writes it: the sum of h[i] × history[i] for i from 0 to n − 1, from +0.0. -/
def armSum (n : Nat) (taps hist : List F64) : F64 :=
  (List.range n).foldl (fun acc i => acc.add ((taps.getD i F64.zero).mul (hist.getD i F64.zero))) F64.zero

/-- Bin k has the largest of n magnitudes, and is the first that has it (42_acquisition.md R249). -/
def IsStrongestBin (n : Nat) (mag : Nat → F64) (k : Nat) : Prop :=
  k < n ∧ ∀ i < n, F64.le (mag i) (mag k) = true ∧ (i < k → F64.lt (mag i) (mag k) = true)

/-- Bin i, at a distance from dz to sm of mv on the side `dir` (−1 below, 1 above), has the largest magnitude of the bins
there that are in range, and is the nearest that has it (42_acquisition.md R249). -/
def IsSideBin (n : Nat) (mag : Nat → F64) (mv : Nat) (dz sm dir i : Int) : Prop :=
  ∃ d : Int, dz ≤ d ∧ d ≤ sm ∧ i = mv + dir * d ∧ 0 ≤ i ∧ i < n ∧
    ∀ e : Int, dz ≤ e → e ≤ sm → 0 ≤ mv + dir * e → mv + dir * e < n →
      F64.le (mag (mv + dir * e).toNat) (mag i.toNat) = true ∧ (e < d → F64.lt (mag (mv + dir * e).toNat) (mag i.toNat) = true)

/-- Both bins of the pair at distance t around the centre k lie in the spectrum (42_acquisition.md R265). -/
def FoldInRange (nc : Nat) (t k : Int) : Prop :=
  0 ≤ (nc / 2 : Nat) + k - t ∧ (nc / 2 : Nat) + k - t < nc ∧ 0 ≤ (nc / 2 : Nat) + k + t ∧ (nc / 2 : Nat) + k + t < nc

/-- The energy of the pair around the centre k (42_acquisition.md R265). -/
def foldEnergy (nc : Nat) (mc : List F64) (t k : Int) : F64 :=
  (mc.getD ((nc / 2 : Nat) + k - t).toNat F64.zero).add (mc.getD ((nc / 2 : Nat) + k + t).toNat F64.zero)

/-- The centre k has the most energy of the centres from −kMax to kMax in range, and is the lowest that has it (R265). -/
def IsFoldCentre (nc : Nat) (mc : List F64) (t kMax k : Int) : Prop :=
  (-kMax ≤ k ∧ k ≤ kMax ∧ FoldInRange nc t k) ∧
    ∀ j : Int, -kMax ≤ j → j ≤ kMax → FoldInRange nc t j →
      F64.le (foldEnergy nc mc t j) (foldEnergy nc mc t k) = true ∧
        (j < k → F64.lt (foldEnergy nc mc t j) (foldEnergy nc mc t k) = true)

/-- A 32-bit write of `v` at the offset `off`, the host's ordinary access (R10). -/
def write32 (off : Nat) (v : Word) : Access := { kind := .write v, width := .w32, off := off }

/-- A 32-bit read of the offset `off` (R10). -/
def read32 (off : Nat) : Access := { kind := .read, width := .w32, off := off }

/-! ### Runs of the primitives -/

/-- One advance followed by passed(): the report and the oscillator (R154, R156). -/
def Osc.tick (o : Osc) : Bool × Osc := (o.advance.latch, o.advance.consumeLatch)

/-- The oscillator after n ticks. -/
def Osc.ticks (o : Osc) : Nat → Osc
  | 0 => o
  | n + 1 => (o.ticks n).tick.2

/-- The report of tick n, counted from 0. -/
def Osc.report (o : Osc) (n : Nat) : Bool := (o.ticks n).tick.1

/-- How many of the first n ticks report a pass. -/
def Osc.reports (o : Osc) : Nat → Nat
  | 0 => 0
  | n + 1 => o.reports n + if o.report n then 1 else 0

/-- The phase accumulated by n advances, not wrapped (R168). -/
def Osc.accumulated (o : Osc) (n : Nat) : Nat := o.phase.toNat + n * o.ftw.toNat

/-- The outputs of pushing a list of values through a delay line, in order (R190). -/
def DelayLine.outputs {α : Type} (dflt : α) : DelayLine α → List α → List α
  | _, [] => []
  | d, x :: xs => d.out dflt :: DelayLine.outputs dflt (d.push x) xs

/-- n gate steps in a row (R326, R327), with the MSE and the other units held still. -/
def State.gateSteps (s : State) : Nat → Res State
  | 0 => .ok s
  | n + 1 => s.gateStep.bind fun t => t.gateSteps n

/-- The hunter fed n signal-absent updates (R444): every output, with the number of its update. -/
def Hunter.absents (p : HunterParams) (h : Hunter) : Nat → Hunter × List (Nat × HunterOut)
  | 0 => (h, [])
  | n + 1 =>
    let r := h.absents p n
    let a := r.1.absent p
    (a.1, r.2 ++ a.2.map fun o => (n + 1, o))

/-- A safe run: from `s`, n steps all answer a next state, and the last one is `t`. The only stop of the model is
an access outside the window (log 4). -/
def SafeRun (n : Nat) (s t : State) : Prop := Host.Core.run
  { State := State, Fault := Fault, Refusal := Refusal, step := step, reset := State.reset } n s = .next t

end Machine

end Sys2Proof
end

