-- ==== Sys2Proof/Certificates/Slice0/Obligations.lean ====
section
/-! DEFINITION. The statements for the provers. Each docstring names the rule of spec/ it formalises, and
the log entry of any choice of the model that it rests on. -/

open Sys2Proof Sys2Proof.Machine

/-! ### Encoding (30_encoding.md) -/

/-- Decoding the encoding of a well-formed instruction gives the instruction back, for every instruction and every
sample value (R110 to R114, R120). -/
def Obligations.DecodeEncode : Prop :=
  ∀ i : Instr, i.WellFormed → decode (encode i).1 (encode i).2 = .ok i

/-- A word that a port decodes is the one encoding of what it decodes to; and every sample word decodes, I its low and
Q its high half, each read in two's complement (R110, R111, R112, R114). -/
def Obligations.EncodeDecode : Prop :=
  (∀ (p : Port) (w : Word) (i : Instr), decode p w = .ok i → i.WellFormed ∧ encode i = (p, w)) ∧
  ∀ w : Word, decode .sampleIn w = .ok (.sample
    (if w.toNat % 2 ^ 16 < 2 ^ 15 then ((w.toNat % 2 ^ 16 : ℕ) : ℤ) else ((w.toNat % 2 ^ 16 : ℕ) : ℤ) - 2 ^ 16)
    (if w.toNat / 2 ^ 16 < 2 ^ 15 then ((w.toNat / 2 ^ 16 : ℕ) : ℤ) else ((w.toNat / 2 ^ 16 : ℕ) : ℤ) - 2 ^ 16))

/-- R114: a format-C word is legal exactly when Z = 0, OP is in the map and UNIT is one of its row's; the legal words
are the 36 of spec/opcode_table.json, each with the instruction and the unit of its row. -/
def Obligations.LegalCommandWords : Prop :=
  (∀ (w : Word) (i : Instr), decodeCmd w = .ok i ↔ (w, i) ∈ tableWords) ∧ tableWords.length = 36 ∧
  ∀ w : Word, (∃ i, decodeCmd w = .ok i) ↔
    w.toNat % 2 ^ 20 = 0 ∧
      let op := w.toNat / 2 ^ 24
      let unit := w.toNat / 2 ^ 20 % 16
      (op ≤ 0x03 ∧ unit = 0) ∨ (0x10 ≤ op ∧ op ≤ 0x16 ∧ unit ≤ 2) ∨ (op = 0x20 ∧ unit ≤ 1) ∨ (op = 0x21 ∧ unit = 0) ∨
        (op = 0x22 ∧ unit ≤ 3) ∨ (0x23 ≤ op ∧ op ≤ 0x26 ∧ unit = 0)

/-- R115: a write to CMD of a word with Z ≠ 0, with an OP outside the map or with a UNIT its row does not allow has
no effect but Fault(ILLEGAL_CMD, w). -/
def Obligations.IllegalWordFaults : Prop :=
  ∀ (s : State) (rest : List Access) (w : Word),
    s.bus.pending = write32 0x010 w :: rest → s.fault = false →
    (let op := w.toNat / 2 ^ 24
     let unit := w.toNat / 2 ^ 20 % 16
     w.toNat % 2 ^ 20 ≠ 0 ∨ (0x04 ≤ op ∧ op ≤ 0x0F) ∨ (0x17 ≤ op ∧ op ≤ 0x1F) ∨ 0x27 ≤ op ∨ (op ≤ 0x03 ∧ unit ≠ 0) ∨
       (0x10 ≤ op ∧ op ≤ 0x16 ∧ 3 ≤ unit) ∨ (op = 0x20 ∧ 2 ≤ unit) ∨ (op = 0x21 ∧ unit ≠ 0) ∨ (op = 0x22 ∧ 4 ≤ unit) ∨
       (0x23 ≤ op ∧ op ≤ 0x26 ∧ unit ≠ 0)) →
    step s = .next (raiseFault .illegalCmd w (s.takeAccess rest))

/-- A few words, written out from the encoding, decode to what they stand for (R113, R120, R121). -/
def Obligations.DecodedWords : Prop :=
  decode .cmd 0x00000000#32 = .ok .nop ∧ decode .cmd 0x10000000#32 = .ok .ncoSetfreqMix ∧
  decode .cmd 0x10200000#32 = .ok .ncoSetfreqCar ∧ decode .cmd 0x16100000#32 = .ok .ncoPassedTim ∧
  decode .cmd 0x20100000#32 = .ok .dlPushDlSym ∧ decode .cmd 0x22200000#32 = .ok .emaPushQgMse ∧
  decode .cmd 0x26000000#32 = .ok .qgSlice ∧ decode .cmd 0x10300000#32 = .error .illegalUnit ∧
  decode .cmd 0x04000000#32 = .error .unknownOpcode ∧ decode .cmd 0x00000001#32 = .error .reservedBits ∧
  decode .sampleIn 0x80007FFF#32 = .ok (.sample 32767 (-32768))

/-! ### One step (00_scope.md R10; 20_memory.md; 60_exceptions.md) -/

/-- The step takes a pending write of CMD or SAMPLE_IN, decodes its word by the register written and runs the
instruction (R10, R111, R116). While FAULT = 1 only RESET runs; any other is refused (R404). -/
def Obligations.StepRunsDecoded : Prop :=
  ∀ (p : Port) (w : Word) (i : Instr) (s : State) (rest : List Access),
    s.bus.pending = write32 (match p with | .cmd => 0x010 | .sampleIn => 0x140) w :: rest → decode p w = .ok i →
    (s.fault = false ∨ i = .reset → step s = exec i (s.takeAccess rest)) ∧
    (s.fault = true → i ≠ .reset → step s = .next (s.takeAccess rest))

/-- An aligned 32-bit read answers the register's word and changes no state of the block, faulted or not; the
words of the 64-bit registers stand at their offset (LO) and 4 above it (HI) (R33, R85, R86, R378). The pending
list and the returned value are the model's own (logs 2, 21). -/
def Obligations.ReadsAnswerAndChangeNothing : Prop :=
  (∀ (s : State) (rest : List Access) (off : Nat), s.bus.pending = read32 off :: rest → off % 4 = 0 → off < 0x1000 →
    step s = .next { s with bus := { pending := rest, resp := some (readWord s off) } }) ∧
  ∀ s : State,
    (∀ r ∈ [(0x020, s.arg0), (0x028, s.arg1), (0x030, s.res0), (0x038, s.res1), (0x040, s.pend.fs), (0x048, s.pend.fb),
        (0x050, s.pend.freqCenter), (0x058, s.pend.lockBw), (0x060, s.pend.sigThresh), (0x080, s.act.fs),
        (0x088, s.act.fb), (0x090, s.act.fc), (0x098, s.act.lbw), (0x0A0, s.act.thr), (0x0B0, s.dp.sps),
        (0x0C0, s.dp.qgMse.y), (0x0C8, s.dp.ebno), (0x0D0, s.dp.freqEst), (0x0D8, s.dp.gate.carrier),
        (0x130, s.dp.agc.m), (0x138, s.dp.ted.y), (0x148, s.dp.acq.bt1)],
      readWord s r.1 = r.2.bits.extractLsb' 0 32 ∧ readWord s (r.1 + 4) = r.2.bits.extractLsb' 32 32) ∧
    (∀ r ∈ [(0x0E0, s.dp.sampleCnt), (0x0E8, s.dp.symbolCnt)],
      readWord s r.1 = r.2.extractLsb' 0 32 ∧ readWord s (r.1 + 4) = r.2.extractLsb' 32 32) ∧
    (∀ r ∈ [(0x000, 0x4E434F01#32), (0x004, s.ctrl.zeroExtend 32), (0x00C, s.err.zeroExtend 32), (0x010, 0),
        (0x014, s.errInfo), (0x018, 0), (0x01C, 0), (0x068, s.pend.fftPower), (0x06C, 0), (0x0A8, BitVec.ofNat 32 s.act.fftp),
        (0x0AC, s.act.ctrl.zeroExtend 32), (0x0B8, BitVec.ofNat 32 s.dp.nmf), (0x0BC, BitVec.ofNat 32 s.dp.dsym),
        (0x0F0, s.dp.gate.cd), (0x0F4, BitVec.ofNat 32 s.dp.acq.ptr), (0x0F8, s.dp.gate.sinceLock), (0x0FC, s.dp.gate.symSince),
        (0x100, s.dp.mix.phase), (0x104, s.dp.mix.ftw), (0x108, s.dp.mix.point),
        (0x10C, s.dp.mix.nstat), (0x11C, s.dp.tim.nstat), (0x12C, s.dp.car.nstat),
        (0x110, s.dp.tim.phase), (0x114, s.dp.tim.ftw), (0x118, s.dp.tim.point),
        (0x120, s.dp.car.phase), (0x124, s.dp.car.ftw), (0x128, s.dp.car.point), (0x140, 0),
        (0x144, BitVec.ofNat 32 s.dp.gate.sb.length), (0x170, 0), (0x174, BitVec.ofNat 32 s.fifo.length)],
      readWord s r.1 = r.2)

/-- R83: an access that is not 32 bits wide and 4-byte aligned performs no write, returns 0 to a read, and raises
Fault(BUS, offset). -/
def Obligations.BusFault : Prop :=
  ∀ (s : State) (a : Access) (rest : List Access),
    s.bus.pending = a :: rest → a.off < 0x1000 → s.fault = false → ¬(a.width = .w32 ∧ a.off % 4 = 0) →
    step s = .next ((raiseFault .bus (BitVec.ofNat 32 a.off) (s.takeAccess rest)).respond
      (match a.kind with | .read => some 0 | .write _ => none))

/-- R404: while FAULT = 1 aligned reads and EV_POP writes behave as usual, the RESET word resets, and every other access
is refused: it changes nothing, a read returns 0, and no fault is raised and no event pushed. -/
def Obligations.RefusedWhileFaulted : Prop :=
  ∀ (s : State) (a : Access) (rest : List Access), s.bus.pending = a :: rest → a.off < 0x1000 → s.fault = true →
    if a.width = .w32 ∧ a.off % 4 = 0 ∧ a.kind = .read then
      step s = .next { s with bus := { pending := rest, resp := some (readWord s a.off) } }
    else if a.width = .w32 ∧ a.off = 0x170 then
      step s = .next { s with fifo := s.fifo.tail, bus := { pending := rest, resp := none } }
    else if a = write32 0x010 0x02000000 then
      step s = .next { State.reset with bus := { pending := rest, resp := none } }
    else step s = .next { s with bus := { pending := rest, resp := if a.kind = .read then some 0 else none } }

/-- Taking a fault writes ERR, ERR_INFO and FAULT and pushes the FAULT event: a record of type 7 with the code and the
information word, or EVOVF where the FIFO is full. Nothing else changes (R400, R401, R67, R68, R69). -/
def Obligations.FaultAction : Prop :=
  ∀ (c : FaultCode) (info : Word) (s : State),
    let code : Nat := match c with | .illegalCmd => 1 | .badArg => 2 | .badSettings => 3 | .bus => 4 | .zeroDiv => 5
    let t := { s with fault := true, err := BitVec.ofNat 8 code, errInfo := info }
    raiseFault c info s =
      if s.fifo.length = 64 then { t with evovf := true }
      else { t with
        fifo := s.fifo ++ [⟨s.evseq.extractLsb' 0 24 ++ (7#8), BitVec.ofNat 32 code, info, 0, 0, 0, 0, 0⟩]
        evseq := s.evseq + 1 }

/-- Faults are precise, for every access and every instruction: a step that ends faulted differs from the state before
it by the fault action alone, with the written word, or for BUS the offset, as its information (R401 to R403). -/
def Obligations.FaultsArePrecise : Prop :=
  ∀ s t : State, s.fault = false → step s = .next t → t.fault = true →
    ∃ (a : Access) (rest : List Access) (c : FaultCode) (info : Word) (r : Option Word),
      s.bus.pending = a :: rest ∧ t = (raiseFault c info (s.takeAccess rest)).respond r ∧
      (if c = .bus then info = BitVec.ofNat 32 a.off else a.kind = .write info)

/-- The one stop of the model is an access at an offset outside the window, which is no access to the block (R80; the stop is
the model's choice, log 4): every pending access inside the window answers a next state, neither a fault nor a refusal.
Nothing happens without an access (R10; log 3). -/
def Obligations.OutsideWindowStops : Prop :=
  (∀ (s : State) (a : Access) (rest : List Access), s.bus.pending = a :: rest →
    (0x1000 ≤ a.off → step s = .fault .outsideWindow) ∧ (a.off < 0x1000 → ∃ t, step s = .next t)) ∧
  (∀ s : State, s.bus.pending = [] → step s = .next s)

/-! ### Registers (10_state.md; 46_control.md) -/

/-- R39: a write of v to STATUS clears EVOVF where v[7] = 1 and OVR where v[8] = 1, ignores every other bit, and is refused
while FAULT = 1. -/
def Obligations.StatusWriteClears : Prop :=
  ∀ (s : State) (v : Word) (rest : List Access), s.bus.pending = write32 0x008 v :: rest →
    (s.fault = false → step s = .next { s.takeAccess rest with
      evovf := if v.getLsbD 7 then false else s.evovf
      ovr := if v.getLsbD 8 then false else s.ovr }) ∧
    (s.fault = true → step s = .next (s.takeAccess rest))

/-- R51: a write of v to an oscillator's PHASE sets the phase and arms, to FTW sets the tuning word, to POINT sets the
point, arms and clears the latch; at once, and nothing else changes. -/
def Obligations.OscillatorRegisterWrites : Prop :=
  ∀ (s : State) (v : Word) (rest : List Access) (k : Nat), s.fault = false → k < 3 →
    let put (f : Osc → Osc) : State :=
      if k = 0 then { s.takeAccess rest with dp.mix := f s.dp.mix }
      else if k = 1 then { s.takeAccess rest with dp.tim := f s.dp.tim }
      else { s.takeAccess rest with dp.car := f s.dp.car }
    (s.bus.pending = write32 (0x100 + 0x10 * k) v :: rest → step s = .next (put fun o => { o with phase := v, armed := true })) ∧
    (s.bus.pending = write32 (0x104 + 0x10 * k) v :: rest → step s = .next (put fun o => { o with ftw := v })) ∧
    (s.bus.pending = write32 (0x108 + 0x10 * k) v :: rest →
      step s = .next (put fun o => { o with point := v, armed := true, latch := false }))

/-- A host write of a word of an operand or of a pending setting, while FAULT = 0, is read back unchanged, and no other
register of the window reads differently; one of CTRL keeps its four bits, and of the other registers only STATUS may read
differently, and that in its bit IRQ alone. Neither changes the active settings, the datapath, the FIFO or a flag (R32, R36,
R37, R38, R42, R43, R377). -/
def Obligations.StoredRegistersReadBack : Prop :=
  ∀ (s : State) (v : Word) (rest : List Access), s.fault = false →
    let kept (t : State) : Prop := t.act = s.act ∧ t.dp = s.dp ∧ t.fifo = s.fifo ∧ t.evseq = s.evseq ∧ t.evovf = s.evovf ∧
      t.ovr = s.ovr ∧ t.fault = false ∧ t.err = s.err ∧ t.errInfo = s.errInfo ∧ t.res0 = s.res0 ∧ t.res1 = s.res1 ∧
      t.bus = { pending := rest, resp := none }
    (∀ off ∈ [0x020, 0x024, 0x028, 0x02C, 0x040, 0x044, 0x048, 0x04C, 0x050, 0x054, 0x058, 0x05C, 0x060, 0x064, 0x068],
      s.bus.pending = write32 off v :: rest →
      ∃ t, step s = .next t ∧ kept t ∧ t.ctrl = s.ctrl ∧ readWord t off = v ∧ ∀ o, o ≠ off → readWord t o = readWord s o) ∧
    (s.bus.pending = write32 0x004 v :: rest →
      ∃ t, step s = .next t ∧ kept t ∧ t.arg0 = s.arg0 ∧ t.arg1 = s.arg1 ∧ t.pend = s.pend ∧ readWord t 0x004 = v &&& 0xF ∧
        (∀ o, o ≠ 0x004 → o ≠ 0x008 → readWord t o = readWord s o) ∧
        (∀ n, n ≠ 9 → (readWord t 0x008).getLsbD n = (readWord s 0x008).getLsbD n) ∧
        (readWord t 0x008).getLsbD 9 = (v.getLsbD 3 && decide (s.fifo ≠ [])))

/-- R73: a write to a reserved offset or to an RO register is ignored, a read of a reserved offset returns 0, and
neither is a fault. -/
def Obligations.ReservedAndReadOnly : Prop :=
  ∀ (s : State) (off : Nat) (rest : List Access), off < 0x1000 → off % 4 = 0 → s.fault = false →
    (∀ v : Word, s.bus.pending = write32 off v :: rest → (regAt off = none ∨ ∃ r, regAt off = some r ∧ r.code = .ro) →
      step s = .next (s.takeAccess rest)) ∧
    (s.bus.pending = read32 off :: rest → (regAt off = none ∨ 0x178 ≤ off) → step s = .next ((s.takeAccess rest).respond (some 0)))

/-- R379: a write to EV_POP drops the head record, if any, whatever value is written, and changes nothing else: EVOVF, OVR and
evseq stay. EV_W0 to EV_W7 show the head record of any FIFO, so the next one after the pop, and 0 when it is empty. -/
def Obligations.EventPop : Prop :=
  (∀ (s : State) (v : Word) (rest : List Access), s.bus.pending = write32 0x170 v :: rest →
    step s = .next { s with fifo := s.fifo.tail, bus := { pending := rest, resp := none } }) ∧
  (∀ (s : State) (e : EvRecord) (tl : List EvRecord), s.fifo = e :: tl →
    readWord s 0x150 = e.w0 ∧ readWord s 0x154 = e.w1 ∧ readWord s 0x158 = e.w2 ∧ readWord s 0x15C = e.w3 ∧
    readWord s 0x160 = e.w4 ∧ readWord s 0x164 = e.w5 ∧ readWord s 0x168 = e.w6 ∧ readWord s 0x16C = e.w7) ∧
  ∀ s : State, s.fifo = [] → ∀ n < 8, readWord s (0x150 + 4 * n) = 0

/-- The bits of STATUS and of NSTAT, and the level of IRQ (R38, R52, R320, R425). ACQST never reads 2 (R38), since
no step leaves Verifying behind (`Obligations.ShapeIsKept`). -/
def Obligations.StatusBits : Prop :=
  (∀ s : State,
    s.statusWord.getLsbD 0 = decide (s.dp.gate.st ≠ .noSig) ∧
    (s.statusWord.extractLsb' 1 2).toNat = (match s.dp.gate.st with | .noSig => 0 | .acq => 1 | .lock => 2) ∧
    (s.statusWord.extractLsb' 3 2).toNat = (match s.dp.acq.st with | .rejected => 0 | .filling => 1 | .verifying => 2 | .locked => 3) ∧
    s.statusWord.getLsbD 5 = s.fault ∧ s.statusWord.getLsbD 6 = decide (s.fifo ≠ []) ∧ s.statusWord.getLsbD 7 = s.evovf ∧
    s.statusWord.getLsbD 8 = s.ovr ∧
    s.statusWord.getLsbD 9 = (s.ctrl.getLsbD 3 && (decide (s.fifo ≠ []) || s.fault)) ∧
    s.irq = (s.ctrl.getLsbD 3 && (decide (s.fifo ≠ []) || s.fault)) ∧
    s.statusWord.toNat < 2 ^ 10 ∧ readWord s 0x008 = s.statusWord) ∧
  ∀ o : Osc, o.nstat.getLsbD 0 = o.armed ∧ o.nstat.getLsbD 1 = o.latch ∧ o.nstat.toNat < 4

/-! ### Control commands (46_control.md; 70_reset_and_hazards.md) -/

/-- RESET completes in every state, faulted or not, and leaves every register at its reset value, every reserved
offset at 0, and the gate, the FIFO and the counter at their reset state (R375, R407, R450, R451, R33). That the host's
accesses stay is the model's own (log 22). -/
def Obligations.ResetLeaves : Prop :=
  ∀ s : State, ∃ t, exec .reset s = .next t ∧ t.bus = s.bus ∧
    (∀ n < 1024, readWord t (4 * n) = ((resetWords.find? fun p => p.1 == 4 * n).map Prod.snd).getD 0) ∧
    t.fifo = [] ∧ t.evseq = 0 ∧ t.fault = false ∧ t.evovf = false ∧ t.ovr = false ∧ t.dp.gate.st = .noSig ∧
    t.dp.gate.zpp = Cplx.zero ∧ t.dp.acq.armed = true ∧ t.dp.cont.settle = 4 ∧ t.irq = false

/-- NOP completes in every state and does nothing (R370); EV.FLUSH completes where FAULT = 0, empties the FIFO and clears
EVOVF and OVR, and evseq stays (R376); while FAULT = 1 both are refused (R404). -/
def Obligations.NopAndFlush : Prop :=
  (∀ s : State, exec .nop s = .next s) ∧
  (∀ s : State, s.fault = false → exec .evFlush s = .next { s with fifo := [], evovf := false, ovr := false }) ∧
  (∀ s : State, s.fault = true → exec .evFlush s = .next s)

/-- APPLY completes where FAULT = 0, every real setting is finite and FS > 0 and FB > 0: it clamps the settings, rebuilds
everything from them by the formulas of R372, and pushes SIG_ABSENT with cause 1 only if a signal was held. Any other setting is
BAD_SETTINGS with information 0x01000000 (R45, R62, R204, R210, R215, R244, R245, R371 to R373, R400); that APPLY has no commit check is DEDUCED (log 13). -/
def Obligations.ApplyCompletes : Prop :=
  ∀ s : State, s.fault = false →
    let p := s.pend
    if (∀ x ∈ [p.fs, p.fb, p.freqCenter, p.lockBw, p.sigThresh], x.isFinite = true) ∧ F64.lt F64.zero p.fs = true ∧
        F64.lt F64.zero p.fb = true then
      let fb := F64.fmax (F64.fmin p.fb p.fs) (p.fs.div ⟨0x4060000000000000⟩)
      let lo := F64.mul ⟨0x3FE8000000000000⟩ fb
      let hi := (p.fs.div F64.two).sub (F64.mul ⟨0x3FE8000000000000⟩ fb)
      let a : Active :=
        { fs := p.fs, fb := fb
          fc := if F64.le lo hi then F64.fmin (F64.fmax p.freqCenter lo) hi else p.fs.div F64.four
          lbw := F64.fmin (F64.fmax p.lockBw F64.zero) p.fs
          thr := F64.fmax p.sigThresh F64.zero
          fftp := if p.fftPower.toInt < 4 then 4 else if 16 < p.fftPower.toInt then 16 else p.fftPower.toNat
          ctrl := s.ctrl.extractLsb' 0 3 }
      let t := { s with act := a, dp := rebuiltByRules a }
      exec .apply s = .next
        (if s.dp.gate.st = .noSig then t else pushed t 2 [s.dp.sampleCnt.extractLsb' 0 32, 1])
    else exec .apply s = .next (raiseFault .badSettings 0x01000000 s)

/-- R374: APPLY is idempotent. Two with the same pending settings leave every register and internal field
identical; only the first may push an event, SIG_ABSENT, and only if a signal was held. -/
def Obligations.ApplyIdempotent : Prop :=
  ∀ s : State, s.fault = false → settingsLegal s.pend = true →
    ∃ t, exec .apply s = .next t ∧ exec .apply t = .next t ∧
      (s.dp.gate.st = .noSig → t.fifo = s.fifo ∧ t.evseq = s.evseq) ∧
      (s.dp.gate.st ≠ .noSig → s.fifo.length < 64 → ∃ e : EvRecord, e.type = 2 ∧ t.fifo = s.fifo ++ [e])

/-- What APPLY's clamps promise, for every legal setting: FB in (0, FS] and at least FS/SPS_MAX, FC in its range
where the range is not empty and FS/4 where it is, LBW in [0, FS], THR ≥ 0, FFTP in [4, 16], and all finite (R371). -/
def Obligations.ClampedSettings : Prop :=
  ∀ (p : Settings) (c : BitVec 4), settingsLegal p = true →
    let a := activeOf p c
    let lo := F64.mul ⟨0x3FE8000000000000⟩ a.fb
    let hi := (a.fs.div F64.two).sub lo
    a.fs = p.fs ∧ F64.lt F64.zero a.fb = true ∧ F64.le a.fb a.fs = true ∧ F64.le (a.fs.div ⟨0x4060000000000000⟩) a.fb = true ∧
    (F64.le lo hi = true → F64.le lo a.fc = true ∧ F64.le a.fc hi = true) ∧
    (F64.le lo hi = false → a.fc = a.fs.div F64.four) ∧
    F64.le F64.zero a.lbw = true ∧ F64.le a.lbw a.fs = true ∧ F64.le F64.zero a.thr = true ∧
    4 ≤ a.fftp ∧ a.fftp ≤ 16 ∧ (∀ x ∈ a.reals, x.isFinite = true) ∧ a.ctrl = c.extractLsb' 0 3

/-- Why rebuild() has no fault path in the model: on clamped settings none of its phase-word conversions can fault
(R372; the reading is DEDUCED, log 15). -/
def Obligations.RebuildCannotFault : Prop :=
  ∀ (p : Settings) (c : BitVec 4), settingsLegal p = true →
    let a := activeOf p c
    phaseFaults (a.fc.div a.fs) = false ∧ phaseFaults ((a.fb.div F64.two).div a.fs) = false ∧ phaseFaults params.timPoint = false

/-- The buffer bounds of R82 and the divisors of R411, for every sample rate of at least 2^-1000: NMF ≤ 257, DSYM ≤ 129,
LB + LT ≤ 8192, NC ≤ 65536, hzb > 0 and SP > 0. Below that rate binary64 underflow breaks them (log 20). -/
def Obligations.GeometryBounds : Prop :=
  ∀ (p : Settings) (c : BitVec 4), settingsLegal p = true → F64.le ⟨0x0170000000000000⟩ p.fs = true →
    let a := activeOf p c
    let d := rebuild a
    F64.le F64.one d.sps = true ∧ F64.le d.sps ⟨0x4060000000000000⟩ = true ∧ 2 ≤ d.nmf ∧ d.nmf ≤ 257 ∧ 1 ≤ d.dsym ∧ d.dsym ≤ 129 ∧
    d.acq.lb + d.acq.lt ≤ 8192 ∧ d.cont.nc ≤ 65536 ∧
    F64.lt F64.zero (binSpacing a.fs d.acq.nacq) = true ∧ F64.lt F64.zero (toneSpacing a.fb (binSpacing a.fs d.acq.nacq)) = true

/-- R411's premise "hzb = FS / NACQ > 0, because APPLY guarantees FS > 0", for every legal setting. It FAILS: for the
smallest positive FS the quotient underflows to 0, so ZERO_DIV can be raised (log 20). -/
def Obligations.BinSpacingAlwaysPositive : Prop :=
  ∀ (p : Settings) (c : BitVec 4), settingsLegal p = true →
    F64.lt F64.zero (binSpacing (activeOf p c).fs 4096) = true

/-! ### Oscillators (40_nco.md) -/

/-- NCO.SETFREQ, on each oscillator: where FAULT = 0, ARG0 and ARG1 are finite, ARG1 > 0 and ARG0 / ARG1 × 2^32 does not
overflow, ftw <- rne(ARG0 / ARG1 × 2^32) mod 2^32 and nothing else changes; otherwise BAD_ARG with the command word
(R157, R160, R23). -/
def Obligations.NcoSetfreq : Prop :=
  ∀ s : State, s.fault = false →
    if s.arg0.isFinite = true ∧ s.arg1.isFinite = true ∧ F64.lt F64.zero s.arg1 = true ∧ Turns (s.arg0.div s.arg1) then
      exec .ncoSetfreqMix s = .next { s with dp.mix.ftw := turnWord (s.arg0.div s.arg1) } ∧
      exec .ncoSetfreqTim s = .next { s with dp.tim.ftw := turnWord (s.arg0.div s.arg1) } ∧
      exec .ncoSetfreqCar s = .next { s with dp.car.ftw := turnWord (s.arg0.div s.arg1) }
    else
      exec .ncoSetfreqMix s = .next (raiseFault .badArg 0x10000000 s) ∧
      exec .ncoSetfreqTim s = .next (raiseFault .badArg 0x10100000 s) ∧
      exec .ncoSetfreqCar s = .next (raiseFault .badArg 0x10200000 s)

/-- NCO.SETPHASE, on each oscillator: where FAULT = 0 and ARG0 is finite, phase <- rne(ARG0 / 360 × 2^32) mod 2^32 and
armed <- 1, and nothing else changes; otherwise, or where the product overflows, BAD_ARG (R152, R161, R23). -/
def Obligations.NcoSetphase : Prop :=
  ∀ s : State, s.fault = false →
    let x := s.arg0.div ⟨0x4076800000000000⟩
    if s.arg0.isFinite = true ∧ Turns x then
      exec .ncoSetphaseMix s = .next { s with dp.mix := { s.dp.mix with phase := turnWord x, armed := true } } ∧
      exec .ncoSetphaseTim s = .next { s with dp.tim := { s.dp.tim with phase := turnWord x, armed := true } } ∧
      exec .ncoSetphaseCar s = .next { s with dp.car := { s.dp.car with phase := turnWord x, armed := true } }
    else
      exec .ncoSetphaseMix s = .next (raiseFault .badArg 0x11000000 s) ∧
      exec .ncoSetphaseTim s = .next (raiseFault .badArg 0x11100000 s) ∧
      exec .ncoSetphaseCar s = .next (raiseFault .badArg 0x11200000 s)

/-- NCO.VALUE, on each oscillator: where FAULT = 0 it completes at every phase p, (RES0, RES1) <- cis(p), and nothing else
changes: exactly (1, 0), (0, 1), (−1, 0) and (0, −1) at the four quarter-cycle words, and (cos, sin) of TWO_PI × p / 2^32 at
every other (R22, R24, R153, R162). -/
def Obligations.NcoValue : Prop :=
  ∀ s : State, s.fault = false →
    let value (p : Word) (t : State) : Prop :=
      if p = 0x00000000 then t = { s with res0 := ⟨0x3FF0000000000000⟩, res1 := ⟨0⟩ }
      else if p = 0x40000000 then t = { s with res0 := ⟨0⟩, res1 := ⟨0x3FF0000000000000⟩ }
      else if p = 0x80000000 then t = { s with res0 := ⟨0xBFF0000000000000⟩, res1 := ⟨0⟩ }
      else if p = 0xC0000000 then t = { s with res0 := ⟨0⟩, res1 := ⟨0xBFF0000000000000⟩ }
      else
        let angle := F64.mul ⟨0x401921FB54442D18⟩ ((F64.ofNat p.toNat).div ⟨0x41F0000000000000⟩)
        t = { s with res0 := Config.cos angle, res1 := Config.sin angle }
    (∃ t, exec .ncoValueMix s = .next t ∧ value s.dp.mix.phase t) ∧
    (∃ t, exec .ncoValueTim s = .next t ∧ value s.dp.tim.phase t) ∧
    (∃ t, exec .ncoValueCar s = .next t ∧ value s.dp.car.phase t)

/-- NCO.ADVANCE, on each oscillator: where FAULT = 0 the oscillator moves forward by its tuning word, with the crossings
of (phase, phase + ftw], and nothing else changes (R151, R154, R163). -/
def Obligations.NcoAdvance : Prop :=
  ∀ s : State, s.fault = false →
    exec .ncoAdvanceMix s = .next { s with dp.mix := s.dp.mix.movedForward s.dp.mix.ftw } ∧
    exec .ncoAdvanceTim s = .next { s with dp.tim := s.dp.tim.movedForward s.dp.tim.ftw } ∧
    exec .ncoAdvanceCar s = .next { s with dp.car := s.dp.car.movedForward s.dp.car.ftw }

/-- NCO.ADVFRAC, on each oscillator: where FAULT = 0 and ARG0 is finite and ARG0 × 2^32 does not overflow, a word below
half a cycle moves forward with its crossings, and any other moves back with no event; otherwise BAD_ARG (R155, R164, R23). -/
def Obligations.NcoAdvfrac : Prop :=
  ∀ s : State, s.fault = false →
    let d := turnWord s.arg0
    let nudged (o : Osc) : Osc := if d.toNat < 2 ^ 31 then o.movedForward d else { o with phase := o.phase + d }
    if Turns s.arg0 then
      exec .ncoAdvfracMix s = .next { s with dp.mix := nudged s.dp.mix } ∧
      exec .ncoAdvfracTim s = .next { s with dp.tim := nudged s.dp.tim } ∧
      exec .ncoAdvfracCar s = .next { s with dp.car := nudged s.dp.car }
    else
      exec .ncoAdvfracMix s = .next (raiseFault .badArg 0x14000000 s) ∧
      exec .ncoAdvfracTim s = .next (raiseFault .badArg 0x14100000 s) ∧
      exec .ncoAdvfracCar s = .next (raiseFault .badArg 0x14200000 s)

/-- NCO.SETPOINT, on each oscillator: where FAULT = 0 and ARG0 is finite and ARG0 × 2^32 does not overflow,
point <- rne(ARG0 × 2^32) mod 2^32, armed <- 1, latch <- 0, and nothing else changes; otherwise BAD_ARG (R158, R165, R23). -/
def Obligations.NcoSetpoint : Prop :=
  ∀ s : State, s.fault = false →
    if Turns s.arg0 then
      exec .ncoSetpointMix s = .next { s with dp.mix := { s.dp.mix with point := turnWord s.arg0, armed := true, latch := false } } ∧
      exec .ncoSetpointTim s = .next { s with dp.tim := { s.dp.tim with point := turnWord s.arg0, armed := true, latch := false } } ∧
      exec .ncoSetpointCar s = .next { s with dp.car := { s.dp.car with point := turnWord s.arg0, armed := true, latch := false } }
    else
      exec .ncoSetpointMix s = .next (raiseFault .badArg 0x15000000 s) ∧
      exec .ncoSetpointTim s = .next (raiseFault .badArg 0x15100000 s) ∧
      exec .ncoSetpointCar s = .next (raiseFault .badArg 0x15200000 s)

/-- NCO.PASSED, on each oscillator: where FAULT = 0, RES0 <- 1.0 if the latch was set and 0.0 if not, the latch is
cleared, RES1 and everything else stay (R156, R166). -/
def Obligations.NcoPassed : Prop :=
  ∀ s : State, s.fault = false →
    exec .ncoPassedMix s = .next { s with dp.mix.latch := false, res0 := if s.dp.mix.latch then ⟨0x3FF0000000000000⟩ else ⟨0⟩ } ∧
    exec .ncoPassedTim s = .next { s with dp.tim.latch := false, res0 := if s.dp.tim.latch then ⟨0x3FF0000000000000⟩ else ⟨0⟩ } ∧
    exec .ncoPassedCar s = .next { s with dp.car.latch := false, res0 := if s.dp.car.latch then ⟨0x3FF0000000000000⟩ else ⟨0⟩ }

/-- After N advances from any phase, with ftw unchanged, the phase is phase + N × ftw modulo 2^32, and 48000 advances
at 1800 Hz and 48000 Hz from phase 0 reach 0x00004B00 (R154, R167). -/
def Obligations.PhaseAfterAdvances : Prop :=
  (∀ (o : Osc) (n : Nat),
    ((Osc.advance)^[n] o).phase.toNat = (o.phase.toNat + n * o.ftw.toNat) % 2 ^ 32 ∧
    ((Osc.advance)^[n] o).ftw = o.ftw ∧ ((Osc.advance)^[n] o).point = o.point) ∧
  ∀ o : Osc, o.phase = 0 → o.ftw = turnWord (F64.div ⟨0x409C200000000000⟩ ⟨0x40E7700000000000⟩) →
    ((Osc.advance)^[48000] o).phase = 0x00004B00

/-- True exactly once per cycle: from an armed oscillator with no latch and 0 < ftw, with passed() called after every
advance, advance n reports a pass exactly when the accumulated phase crosses the point in it; so N advances report as
many passes as the accumulated phase crosses points (R151, R154, R156, R168). -/
def Obligations.OncePerCycle : Prop :=
  ∀ o : Osc, o.armed = true → o.latch = false → 0 < o.ftw.toNat →
    (∀ n : Nat, o.report n = true ↔
      ∃ j : Nat, o.accumulated n < o.point.toNat + j * 2 ^ 32 ∧ o.point.toNat + j * 2 ^ 32 ≤ o.accumulated (n + 1)) ∧
    (∀ n : Nat, o.reports n =
      (o.accumulated n + 2 ^ 32 - o.point.toNat) / 2 ^ 32 - (o.phase.toNat + 2 ^ 32 - o.point.toNat) / 2 ^ 32)

/-! ### Filters, quantizer and slicer (41_filters.md; 44_quality_softbits.md) -/

/-- R190: a delay line of length at least 1 whose cells hold +0.0 returns the initial value for its first len pushes, and
then the value pushed len pushes earlier: the delay is exact. -/
def Obligations.DelayLineIsExact : Prop :=
  ∀ (α : Type) (zero : α) (len : Nat) (xs : List α), 1 ≤ len →
    DelayLine.outputs zero { buf := List.replicate len zero, ptr := 0 } xs = (List.replicate len zero ++ xs).take xs.length

/-- DL.PUSH, on each line: where FAULT = 0, the arguments are finite and the cell at the pointer is finite, the result is that
cell, the argument takes its place and the pointer moves on, and nothing else changes; DL_TIM leaves RES1. A
non-finite argument is BAD_ARG (R190, R191, R118). -/
def Obligations.DlPush : Prop :=
  ∀ s : State, s.fault = false →
    (∀ h : s.dp.dlTim.ptr < s.dp.dlTim.buf.length, (s.dp.dlTim.buf[s.dp.dlTim.ptr]).isFinite = true →
      exec .dlPushDlTim s = .next (if s.arg0.isFinite then
        { s with
          res0 := s.dp.dlTim.buf[s.dp.dlTim.ptr]
          dp.dlTim := { buf := s.dp.dlTim.buf.set s.dp.dlTim.ptr s.arg0, ptr := (s.dp.dlTim.ptr + 1) % s.dp.dlTim.buf.length } }
        else raiseFault .badArg 0x20000000 s)) ∧
    (∀ h : s.dp.dlSym.ptr < s.dp.dlSym.buf.length, (s.dp.dlSym.buf[s.dp.dlSym.ptr]).isFinite = true →
      exec .dlPushDlSym s = .next (if s.arg0.isFinite && s.arg1.isFinite then
        { s with
          res0 := (s.dp.dlSym.buf[s.dp.dlSym.ptr]).re
          res1 := (s.dp.dlSym.buf[s.dp.dlSym.ptr]).im
          dp.dlSym := { buf := s.dp.dlSym.buf.set s.dp.dlSym.ptr ⟨s.arg0, s.arg1⟩, ptr := (s.dp.dlSym.ptr + 1) % s.dp.dlSym.buf.length } }
        else raiseFault .badArg 0x20100000 s))

/-- MF.PUSH: where FAULT = 0 and the histories are finite and of length NMF ≥ 1, both histories shift by one and take the
arguments, RES0 and RES1 are the sums of tap × history in increasing index from +0.0, and nothing else changes. A
non-finite argument or result is BAD_ARG (R118, R211, R212, R412). -/
def Obligations.MfPush : Prop :=
  ∀ s : State, s.fault = false → 1 ≤ s.dp.nmf →
    s.dp.mf.taps.length = s.dp.nmf → s.dp.mf.hr.length = s.dp.nmf → s.dp.mf.hi.length = s.dp.nmf →
    (∀ x ∈ s.dp.mf.hr ++ s.dp.mf.hi, x.isFinite = true) →
    let hr := s.arg0 :: s.dp.mf.hr.dropLast
    let hi := s.arg1 :: s.dp.mf.hi.dropLast
    let yr := armSum s.dp.nmf s.dp.mf.taps hr
    let yi := armSum s.dp.nmf s.dp.mf.taps hi
    exec .mfPush s = .next (if s.arg0.isFinite && s.arg1.isFinite && yr.isFinite && yi.isFinite then
      { s with res0 := yr, res1 := yi, dp.mf.hr := hr, dp.mf.hi := hi }
      else raiseFault .badArg 0x21000000 s)

/-- EMA.PUSH, on each averager: where FAULT = 0, with y' = y + alpha × (ARG0 − y), RES0 and the state take y', RES1 and
everything else stay; a non-finite argument or y' is BAD_ARG (R118, R195, R196, R412). -/
def Obligations.EmaPush : Prop :=
  ∀ s : State, s.fault = false →
    let y (e : Ema) : F64 := e.y.add (e.alpha.mul (s.arg0.sub e.y))
    let ok (e : Ema) : Bool := s.arg0.isFinite && (y e).isFinite
    exec .emaPushBtS s = .next (if ok s.dp.btS then { s with res0 := y s.dp.btS, dp.btS.y := y s.dp.btS }
      else raiseFault .badArg 0x22000000 s) ∧
    exec .emaPushBtL s = .next (if ok s.dp.btL then { s with res0 := y s.dp.btL, dp.btL.y := y s.dp.btL }
      else raiseFault .badArg 0x22100000 s) ∧
    exec .emaPushQgMse s = .next (if ok s.dp.qgMse then { s with res0 := y s.dp.qgMse, dp.qgMse.y := y s.dp.qgMse }
      else raiseFault .badArg 0x22200000 s) ∧
    exec .emaPushTed s = .next (if ok s.dp.ted then { s with res0 := y s.dp.ted, dp.ted.y := y s.dp.ted }
      else raiseFault .badArg 0x22300000 s)

/-- RES.PUSH: where FAULT = 0 and s1 is finite, with s' = (g × ARG0 + a1 × s1) − a2 × s2, RES0 and s1 take s' and s2 takes
s1; RES1 and everything else stay; a non-finite argument or s' is BAD_ARG (R118, R216, R217, R412). -/
def Obligations.ResPush : Prop :=
  ∀ s : State, s.fault = false → s.dp.res.s1.isFinite = true →
    let r := s.dp.res
    let y := ((r.g.mul s.arg0).add (r.a1.mul r.s1)).sub (r.a2.mul r.s2)
    exec .resPush s = .next (if s.arg0.isFinite && y.isFinite then
      { s with res0 := y, dp.res := { r with s1 := y, s2 := r.s1 } }
      else raiseFault .badArg 0x23000000 s)

/-- AGC.PUSH: where FAULT = 0, with m' = m + alpha × (|z| − m) for z = (ARG0, ARG1) and the gain 1 / max(m', AGC_FLOOR), the
results are the parts of gain × z clamped to ±AGC_CEIL and m takes m'; a non-finite argument, m' or result is BAD_ARG. A
completed push answers parts in [-4, 4] (R118, R205, R207, R412). -/
def Obligations.AgcPush : Prop :=
  ∀ s : State, s.fault = false →
    let z : Cplx := ⟨s.arg0, s.arg1⟩
    let m := s.dp.agc.m.add (s.dp.agc.alpha.mul (z.cabs.sub s.dp.agc.m))
    let gn := F64.one.div (F64.fmax m ⟨0x3F1A36E2EB1C432D⟩)
    let part (x : F64) : F64 := F64.clamp (gn.mul x) ⟨0xC010000000000000⟩ ⟨0x4010000000000000⟩
    let ok : Bool := s.arg0.isFinite && s.arg1.isFinite && m.isFinite && (part s.arg0).isFinite && (part s.arg1).isFinite
    exec .agcPush s = .next (if ok then { s with res0 := part s.arg0, res1 := part s.arg1, dp.agc.m := m }
      else raiseFault .badArg 0x24000000 s) ∧
    (ok = true → ∀ x ∈ [part s.arg0, part s.arg1], F64.le ⟨0xC010000000000000⟩ x = true ∧ F64.le x ⟨0x4010000000000000⟩ = true)

/-- SB.QUANT: where FAULT = 0 and ARG0 is finite it completes, with t = 127.5 + 510.0 × ARG0: RES0 is 255.0 where t ≥ 255, 0.0
where t ≤ 0, and rne(t) elsewhere, always an integer of 0 to 255; RES1 and everything else stay. A non-finite ARG0 is
BAD_ARG (R118, R336, R337). -/
def Obligations.SbQuant : Prop :=
  ∀ s : State, s.fault = false →
    let t := F64.add ⟨0x405FE00000000000⟩ (F64.mul ⟨0x407FE00000000000⟩ s.arg0)
    let n : Int := if F64.le ⟨0x406FE00000000000⟩ t then 255 else if F64.le t F64.zero then 0 else t.rne
    if s.arg0.isFinite = true then exec .sbQuant s = .next { s with res0 := F64.ofInt n } ∧ 0 ≤ n ∧ n ≤ 255
    else exec .sbQuant s = .next (raiseFault .badArg 0x25000000 s)

/-- QG.SLICE: where FAULT = 0, with cr and ci the signs of ARG0 and ARG1 (+1 for zero), RES0 is the squared error of
(ARG0 / 0.5, ARG1 / 0.5) against (cr, ci), RES1 is 1.0 for a negative cr plus 2.0 for a negative ci, and nothing else
changes; a non-finite argument or error is BAD_ARG (R118, R321, R323, R412). -/
def Obligations.QgSlice : Prop :=
  ∀ s : State, s.fault = false →
    let neg (x : F64) : Bool := F64.lt x F64.zero
    let sg (x : F64) : F64 := if neg x then ⟨0xBFF0000000000000⟩ else ⟨0x3FF0000000000000⟩
    let er := (s.arg0.div F64.half).sub (sg s.arg0)
    let ei := (s.arg1.div F64.half).sub (sg s.arg1)
    let err := (er.mul er).add (ei.mul ei)
    let code : F64 := F64.ofNat ((if neg s.arg0 then 1 else 0) + (if neg s.arg1 then 2 else 0))
    exec .qgSlice s = .next (if s.arg0.isFinite && s.arg1.isFinite && err.isFinite then { s with res0 := err, res1 := code }
      else raiseFault .badArg 0x26000000 s)

/-! ### The sample step (45_sample_pipeline.md) -/

/-- An accepted SAMPLE (FAULT = 0, at most 60 records) is the commit of the whole chain of R350: in every gate state, in both modes,
with or without a fill or a symbol instant, it ends in the state `sampleByRules` gives, or in the fault that ends the chain, or
in BAD_ARG where a binary64 value of that state is not finite, each with the sample word. And on an ordinary sample of
burst mode (no signal held, no peak, no fill, no symbol instant, every value finite) it completes, with the next state written
out: the gain ramp, the counters and, when one is due, the quality report included (R205, R211, R216, R240 to R242, R290 to
R293, R330, R331, R350 to R354, R401, R412). -/
def Obligations.SampleOrdinary : Prop :=
  (∀ (s : State) (i q : Int), s.Finite → s.fault = false → s.fifo.length ≤ 60 →
    let w : Word := BitVec.ofInt 16 q ++ BitVec.ofInt 16 i
    exec (.sample i q) s = .next (match sampleByRules s i q with
      | .ok t => if t.dp.reals.all F64.isFinite then t else raiseFault .badArg w s
      | .error c => raiseFault c w s)) ∧
  ∀ (s : State) (i q : Int), FitsI16 i → FitsI16 q → s.fault = false → s.fifo.length ≤ 60 →
    s.act.ctrl.getLsbD 0 = false → s.dp.gate.st = .noSig → s.dp.acq.st ≠ .filling →
    let d := s.dp
    let z : Cplx := ⟨(F64.ofInt i).div ⟨0x40E0000000000000⟩, (F64.ofInt q).div ⟨0x40E0000000000000⟩⟩
    let m := d.agc.m.add (d.agc.alpha.mul (z.cabs.sub d.agc.m))
    let xm := Cplx.mulconj (agcLevelled m z) (phasor d.mix.phase)
    let bs := d.btS.y.add (d.btS.alpha.mul (xm.cabs.sub d.btS.y))
    let bl := d.btL.y.add (d.btL.alpha.mul (xm.cabs.sub d.btL.y))
    let bt := F64.fmin (bs.sub bl) ⟨0x4010000000000000⟩
    let xc := Cplx.mulconj xm (phasor d.car.phase)
    let hr := (xc.re :: d.mf.hr).take d.nmf
    let hi := (xc.im :: d.mf.hi).take d.nmf
    let y : Cplx :=
      ⟨(List.zipWith F64.mul d.mf.taps hr).foldl F64.add ⟨0⟩, (List.zipWith F64.mul d.mf.taps hi).foldl F64.add ⟨0⟩⟩
    let u := (y.re.mul y.re).add (y.im.mul y.im)
    let r := ((d.res.g.mul u).add (d.res.a1.mul d.res.s1)).sub (d.res.a2.mul d.res.s2)
    let ct := phasor d.tim.phase
    let et := (d.dlTim.buf.getD d.dlTim.ptr ⟨0⟩).mul (F64.two.mul (ct.re.mul ct.im))
    let ef := d.ted.y.add (d.ted.alpha.mul (et.sub d.ted.y))
    let p := if d.timRamp = 0 then F64.one else F64.fmin F64.one ((F64.ofNat d.gate.symSince.toNat).div (F64.ofNat d.timRamp))
    let gain := F64.add ⟨0x3FAEB851EB851EB8⟩ ((F64.sub ⟨0x3FA47AE147AE147B⟩ ⟨0x3FAEB851EB851EB8⟩).mul p)
    let tim := (d.tim.movedForward d.tim.ftw).nudged (turnWord (gain.mul ef).neg)
    let t := { s with dp := { d with
      agc.m := m, mix := d.mix.movedForward d.mix.ftw, btS.y := bs, btL.y := bl
      acq := { d.acq with bt1 := bt, bt2 := d.acq.bt1, armed := if F64.lt bt ⟨0x3FB999999999999A⟩ then true else d.acq.armed }
      car := d.car.movedForward d.car.ftw, mf := { d.mf with hr := hr, hi := hi }, dlSym := d.dlSym.pushed y
      res := { d.res with s1 := r, s2 := d.res.s1 }, dlTim := d.dlTim.pushed r, ted.y := ef, tim := tim
      sampleCnt := d.sampleCnt + 1
      gate.sinceLock := if d.gate.sinceLock = 0xFFFFFFFF then d.gate.sinceLock else d.gate.sinceLock + 1 } }
    let ebno := F64.mul ⟨0x4024000000000000⟩
      (Config.log10 (F64.one.div (F64.fmax d.qgMse.y ⟨0x3DDB7CDFD9D7BDBB⟩)))
    ¬(d.acq.armed = true ∧ F64.lt ⟨0x3FE0000000000000⟩ d.acq.bt1 = true ∧ F64.le d.acq.bt2 d.acq.bt1 = true ∧ F64.lt bt d.acq.bt1 = true) →
    Turns (gain.mul ef).neg → tim.latch = false → (∀ x ∈ sampleWrites false s.dp t.dp, x.isFinite = true) →
    exec (.sample i q) s = .next (if (d.sampleCnt + 1).toNat % d.gate.report = 0 then
        pushed { t with dp.ebno := ebno } 3
          [d.qgMse.y.bits.extractLsb' 0 32, d.qgMse.y.bits.extractLsb' 32 32, ebno.bits.extractLsb' 0 32, ebno.bits.extractLsb' 32 32]
      else t)

/-- What every SAMPLE keeps, in both modes: refused with more than 60 records, it sets OVR and changes nothing else; accepted and
not faulting, it counts the sample, advances MIX, consumes TIM's latch, counts at most one symbol, and leaves the
operands, the results, the settings, CTRL, OVR, ERR and everything that only APPLY sets as they were (R34, R66, R350, R351, R356). -/
def Obligations.SampleFrame : Prop :=
  ∀ (s t : State) (i q : Int), s.fault = false → exec (.sample i q) s = .next t →
    (60 < s.fifo.length → t = { s with ovr := true }) ∧
    (s.fifo.length ≤ 60 → t.fault = false →
      t.arg0 = s.arg0 ∧ t.arg1 = s.arg1 ∧ t.res0 = s.res0 ∧ t.res1 = s.res1 ∧ t.pend = s.pend ∧ t.ctrl = s.ctrl ∧ t.act = s.act ∧
      t.ovr = s.ovr ∧ t.err = s.err ∧ t.errInfo = s.errInfo ∧ t.bus = s.bus ∧
      t.dp.sampleCnt = s.dp.sampleCnt + 1 ∧ (t.dp.symbolCnt = s.dp.symbolCnt ∨ t.dp.symbolCnt = s.dp.symbolCnt + 1) ∧
      t.dp.mix.phase = s.dp.mix.phase + s.dp.mix.ftw ∧ t.dp.tim.latch = false ∧
      t.dp.tim.ftw = s.dp.tim.ftw ∧ t.dp.tim.point = s.dp.tim.point ∧ t.dp.mix.point = s.dp.mix.point ∧ t.dp.car.point = s.dp.car.point ∧
      t.dp.sps = s.dp.sps ∧ t.dp.nmf = s.dp.nmf ∧ t.dp.dsym = s.dp.dsym ∧ t.dp.mf.taps = s.dp.mf.taps ∧
      t.dp.agc.alpha = s.dp.agc.alpha ∧ t.dp.res.a1 = s.dp.res.a1 ∧ t.dp.res.a2 = s.dp.res.a2 ∧ t.dp.res.g = s.dp.res.g ∧
      t.dp.btS.alpha = s.dp.btS.alpha ∧ t.dp.btL.alpha = s.dp.btL.alpha ∧ t.dp.ted.alpha = s.dp.ted.alpha ∧
      t.dp.qgMse.alpha = s.dp.qgMse.alpha ∧ t.dp.acq.lb = s.dp.acq.lb ∧ t.dp.acq.lt = s.dp.acq.lt ∧ t.dp.acq.nacq = s.dp.acq.nacq ∧
      t.dp.cont.nc = s.dp.cont.nc ∧ t.dp.gate.qgCd = s.dp.gate.qgCd ∧ t.dp.gate.qgDelay = s.dp.gate.qgDelay ∧
      t.dp.gate.report = s.dp.gate.report ∧
      t.dp.timRamp = s.dp.timRamp ∧ t.dp.carFstart = s.dp.carFstart ∧ t.dp.acq.dead = s.dp.acq.dead ∧
      (s.act.modeCont = false → t.dp.cont = s.dp.cont ∧ t.dp.freqEst = s.dp.freqEst) ∧
      (s.act.modeCont = true → t.dp.acq = s.dp.acq ∧ t.dp.btS = s.dp.btS ∧ t.dp.btL = s.dp.btL ∧
        (t.dp.mix.ftw = s.dp.mix.ftw ∨ (t.dp.gate.st = .noSig ∧ s.dp.gate.st = .lock))))

/-- A symbol instant, whole, in every gate state and in both modes: the carrier error nudges CAR and, from CAR_FSTART symbols after
the lock on, its frequency; the MSE takes the squared error; the decoder memory takes the current sample; while a signal is
held two soft bytes join the buffer, imaginary arm first, the twelfth element flushing it; both symbol counters count; and
in continuous mode with no signal held and MSE < THR the signal is locked without a reset of the loops: SIG_PRESENT with
W2 = 0, then the sentinel. Nothing else changes. It faults, BAD_ARG, only where a nudge is no phase word, which finite
samples exclude. The byte of a soft value that is NaN is free (log 11) (R269, R300 to R303, R321, R322, R324, R325, R335, R336,
R338 to R340, R350). -/
def Obligations.SymbolInstant : Prop :=
  ∀ (s : State) (zc zd : Cplx),
    let d := s.dp
    let e := F64.clamp (((Config.tanh zc.im).mul zc.re).sub ((Config.tanh zd.im).mul zd.re)) F64.halfPi.neg F64.halfPi
    let nudge := (F64.mul ⟨0x3FB999999999999A⟩ e).div F64.twoPi
    let term := (F64.mul ⟨0x3F2A36E2EB1C432D⟩ e).div F64.twoPi
    let settled := d.carFstart ≤ d.gate.symSince.toNat
    let o := d.car.nudged (turnWord nudge)
    let er := (zc.re.div F64.half).sub (F64.sgn zc.re)
    let ei := (zd.im.div F64.half).sub (F64.sgn zd.im)
    let mse := d.qgMse.y.add (d.qgMse.alpha.mul (((er.mul er).add (ei.mul ei)).sub d.qgMse.y))
    let zpp := d.gate.zpp
    let v1 := (zd.im.mul zpp.re).sub (zd.re.mul zpp.im)
    let v2 := (zc.im.mul zd.re).sub (zc.re.mul zd.im)
    let s1 : State := { s with dp := { d with
      car := if settled then { o with ftw := o.ftw + turnWord term } else o
      qgMse.y := mse
      gate.zpp := zc } }
    let s2 := if d.gate.st = .noSig then s1
      else softPushed (softPushed s1 (softByte (Config.quantNaN zc zd zpp) v1)) (softByte (Config.quantNaN zc zd zd) v2)
    let s3 : State := { s2 with
      dp.symbolCnt := d.symbolCnt + 1
      dp.gate.symSince := if d.gate.symSince = 0xFFFFFFFF then d.gate.symSince else d.gate.symSince + 1 }
    let held : State := { s3 with
      dp.gate.st := .acq, dp.gate.cd := BitVec.ofNat 32 d.gate.qgCd, dp.gate.acqEl := 0, dp.gate.sinceLock := 0, dp.gate.symSince := 0 }
    let s4 := if s.act.ctrl.getLsbD 0 = true ∧ d.gate.st = .noSig ∧ F64.lt mse s.act.thr = true then
        softPushed (pushed held 1 [d.sampleCnt.extractLsb' 0 32, 0]) 0x100
      else s3
    (zc.re.isFinite = true → zd.re.isFinite = true → Turns nudge ∧ Turns term) ∧
    s.stageSymbol zc zd = if Turns nudge ∧ (settled → Turns term) then .ok s4 else .error .badArg

/-- Burst acquisition of one mixed sample: both averages take its magnitude; the statistic, its history and the armed flag move
on; a peak restarts the fill and stores the sample at 0, a fill under way stores it at its pointer, and the sample that
fills the buffer starts verification. Nothing else changes before that (R240 to R243, R246). -/
def Obligations.BurstAcquisition : Prop :=
  ∀ (s : State) (xm : Cplx), s.act.ctrl.getLsbD 0 = false →
    let d := s.dp
    let b := d.acq
    let bs := d.btS.y.add (d.btS.alpha.mul (xm.cabs.sub d.btS.y))
    let bl := d.btL.y.add (d.btL.alpha.mul (xm.cabs.sub d.btL.y))
    let bt := F64.fmin (bs.sub bl) ⟨0x4010000000000000⟩
    let peak : Bool := b.armed && F64.lt ⟨0x3FE0000000000000⟩ b.bt1 && F64.le b.bt2 b.bt1 && F64.lt bt b.bt1
    let ptr := if peak then 0 else b.ptr
    let moved : Burst := { b with
      bt1 := bt, bt2 := b.bt1, armed := if peak then false else if F64.lt bt ⟨0x3FB999999999999A⟩ then true else b.armed }
    let put (a : Burst) : State := { s with dp := { d with btS.y := bs, btL.y := bl, acq := a } }
    let stored (st : AcqState) : State := put { moved with buf := b.buf.set ptr xm, ptr := ptr + 1, st := st }
    (peak = false → b.st ≠ .filling → s.acquire xm = .ok (put moved)) ∧
    (peak = true ∨ b.st = .filling → ptr + 1 ≠ b.lb + b.lt → s.acquire xm = .ok (stored .filling)) ∧
    (peak = true ∨ b.st = .filling → ptr + 1 = b.lb + b.lt → s.acquire xm = (stored .verifying).verify)

/-- verify() decides on the centred spectra of the two zero-padded segments of the buffer (R248). Its decision, for any spectra of finite magnitudes and any spacing that is not zero: with mv the strongest base bin
(the lowest on ties) and lo, hi the strongest top bins from DZ to SM below and above it (the nearest on ties, out-of-range bins
skipped), it accepts exactly when the four conditions of R250 hold, and rejects otherwise or without a lo or a hi; a
rejection changes ACQST alone, and hzb = 0 is ZERO_DIV (R247 to R250, R253). -/
def Obligations.TridentDecision : Prop :=
  ∀ (s : State) (bs ts : Nat → Cplx) (hzb : F64),
    let n := s.dp.acq.nacq
    let sp := (F64.mul ⟨0x3FD0000000000000⟩ s.act.fb).div hzb
    let dz := (sp.div F64.two).round
    let sm := (F64.two.mul sp).round
    let rejected : Res State := .ok { s with dp.acq.st := .rejected }
    let b := s.dp.acq
    let centred (segment : List Cplx) (i : Nat) : Cplx := Config.dft n segment ((i + n / 2) % n)
    let base := (List.range n).map fun j => if j < b.lb then b.buf.getD j Cplx.zero else Cplx.zero
    let top := (List.range n).map fun j => if j < b.lt then b.buf.getD (b.lb + j) Cplx.zero else Cplx.zero
    (b.lb ≤ n → b.lt ≤ n → b.buf.length = b.lb + b.lt →
      s.verify = s.verifyWith (centred base) (centred top) (s.act.fs.div (F64.ofNat n))) ∧
    (F64.eq hzb F64.zero = true → s.verifyWith bs ts hzb = .error .zeroDiv) ∧
    (F64.eq hzb F64.zero = false → F64.eq sp F64.zero = false →
      (∀ i < n, (bs i).cabs.isFinite = true ∧ (ts i).cabs.isFinite = true) →
      ∀ mv : Nat, IsStrongestBin n (fun i => (bs i).cabs) mv →
        (∀ lo hi : Int, IsSideBin n (fun i => (ts i).cabs) mv dz sm (-1) lo → IsSideBin n (fun i => (ts i).cabs) mv dz sm 1 hi →
          s.verifyWith bs ts hzb =
            if F64.lt ⟨0x4069000000000000⟩ (bs mv).cabs = true ∧
                F64.le (((F64.ofInt (hi - mv)).div sp).sub F64.one).abs ⟨0x3FA999999999999A⟩ = true ∧ s.dp.gate.st = .noSig ∧
                s.dp.acq.dead ≤ s.dp.gate.sinceLock.toNat then
              s.acceptActions lo hi hzb (bs mv)
            else rejected) ∧
        (∀ dir ∈ [(-1 : Int), 1], (∀ i : Int, ¬IsSideBin n (fun i => (ts i).cabs) mv dz sm dir i) → s.verifyWith bs ts hzb = rejected))

/-- The continuous estimator on one mixed sample: it joins the frame; a full frame is transformed, held to the locking
bandwidth (zeroed or windowed outside it), transformed back, squared and transformed again, smooths every magnitude, counts
the settle period down, emits FREQ_EST and starts again, and touches neither the mixer nor the carrier. The estimate is +0.0
while settling; else half the centre with the most energy, the lowest on ties, or +0.0 where no pair of bins is in range (R260
to R268). -/
def Obligations.ContinuousEstimator : Prop :=
  (∀ (s : State) (xm : Cplx), s.act.ctrl.getLsbD 0 = true →
    let d := s.dp
    let c := d.cont
    let frame := c.frame.set c.ptr xm
    let hzb := s.act.fs.div (F64.ofNat c.nc)
    let half := s.act.lbw.div F64.two
    let limited (k : Nat) : Cplx :=
      let x := Config.dft c.nc frame k
      let af := ((F64.ofInt (if k < c.nc / 2 then (k : Int) else (k : Int) - c.nc)).mul hzb).abs
      let w := F64.half.mul (F64.one.add (Config.cos (F64.pi.mul (F64.fmin F64.one ((af.sub half).div half)))))
      if F64.lt half af = true then
        if s.act.ctrl.getLsbD 2 = true ∧ F64.lt F64.zero s.act.lbw = true then ⟨x.re.mul w, x.im.mul w⟩ else Cplx.zero
      else x
    let squared (n : Nat) : Cplx :=
      let x := Config.idft c.nc ((List.range c.nc).map limited) n
      ⟨(x.re.mul x.re).sub (x.im.mul x.im), (x.re.mul x.im).add (x.im.mul x.re)⟩
    let q (i : Nat) : Cplx := Config.dft c.nc ((List.range c.nc).map squared) ((i + c.nc / 2) % c.nc)
    let mags := c.mags.mapIdx fun i m => m.add (F64.mul ⟨0x3FD3333333333333⟩ ((q i).cabs.sub m))
    let est := if c.settle = 0 then coarseEstimate s.act.fb s.act.lbw hzb c.nc mags else F64.zero
    (c.ptr + 1 ≠ c.nc → s.acquire xm = .ok { s with dp.cont := { c with frame := frame, ptr := c.ptr + 1 } }) ∧
    (c.ptr + 1 = c.nc → s.acquire xm = .ok (pushed { s with
      dp := { d with
        freqEst := est
        cont := { frame := frame, ptr := 0, mags := mags, settle := if c.settle = 0 then 0 else c.settle - 1, nc := c.nc } } }
      4 [est.bits.extractLsb' 0 32, est.bits.extractLsb' 32 32]))) ∧
  ∀ (fb lbw hzb : F64) (nc : Nat) (mc : List F64), (∀ x ∈ mc, x.isFinite = true) →
    let t := ((fb.div F64.two).div hzb).round
    let kMax := (lbw.div hzb).round
    (∀ k : Int, IsFoldCentre nc mc t kMax k → coarseEstimate fb lbw hzb nc mc = ((F64.ofInt k).mul hzb).div F64.two) ∧
    ((∀ k : Int, -kMax ≤ k → k ≤ kMax → ¬FoldInRange nc t k) → coarseEstimate fb lbw hzb nc mc = F64.zero)

/-- A trident acceptance: the carrier moves by the offset of the midpoint of the two top peaks, MIX follows it, CAR takes the
phase of the base bin, the loops, the decoder memory and the MSE go to zero, the gate goes to Acquiring with its
countdown loaded; CARRIER_FREQ, then SIG_PRESENT with W2 = 1, are pushed, and last the sentinel joins the soft-bit buffer,
flushing it where it is the twelfth element (R252, R325, R338, R339). -/
def Obligations.TridentAccept : Prop :=
  ∀ (s : State) (lo hi : Int) (hzb : F64) (b : Cplx),
    let newf := s.dp.gate.carrier.add
      ((((F64.ofInt (lo + hi)).div F64.two).sub ((F64.ofNat s.dp.acq.nacq).div F64.two)).mul hzb)
    let angle := (Config.atan2 b.im b.re).div F64.twoPi
    newf.isFinite = true → s.act.fs.isFinite = true → F64.lt F64.zero s.act.fs = true → Turns (newf.div s.act.fs) →
    let d := s.dp
    let held : State := { s with
      dp := { d with
        mix.ftw := turnWord (newf.div s.act.fs)
        car := { d.car with phase := turnWord angle, armed := true, ftw := 0 }
        ted.y := F64.zero
        qgMse.y := F64.zero
        acq.st := .locked
        gate := { d.gate with
          st := .acq, cd := BitVec.ofNat 32 d.gate.qgCd, acqEl := 0, sinceLock := 0, symSince := 0, zpp := Cplx.zero
          carrier := newf } } }
    s.acceptActions lo hi hzb b = .ok (softPushed
      (pushed (pushed held 5 [newf.bits.extractLsb' 0 32, newf.bits.extractLsb' 32 32]) 1 [d.sampleCnt.extractLsb' 0 32, 1]) 0x100)

/-- One SAMPLE pushes at most four events, at most one of them a SOFT_BATCH, never both SIG_PRESENT and SIG_ABSENT, and never
drops one; earlier records stay where they are (R351, R355). -/
def Obligations.AtMostFourEvents : Prop :=
  ∀ (s t : State) (i q : Int), s.fault = false → exec (.sample i q) s = .next t → t.fault = false →
    ∃ new : List EvRecord, t.fifo = s.fifo ++ new ∧ new.length ≤ 4 ∧ t.evovf = s.evovf ∧
      new.countP (fun e => e.type == 6) ≤ 1 ∧ ¬((∃ e ∈ new, e.type = 1) ∧ (∃ e ∈ new, e.type = 2)) ∧
      t.evseq = s.evseq + BitVec.ofNat 32 new.length

/-- DCD changes only with its event, for every access and every instruction: a step that raises it pushes exactly one
SIG_PRESENT and no SIG_ABSENT, one that clears it exactly one SIG_ABSENT and no SIG_PRESENT, and one that leaves it pushes
neither; but RESET empties the FIFO, and an APPLY that clears DCD on a full FIFO drops its event and sets EVOVF (R320, R325,
R328, R373, R375, R67). -/
def Obligations.DcdEdgesHaveEvents : Prop :=
  ∀ s t : State, step s = .next t →
    (∃ rest, s.bus.pending = write32 0x010 0x02000000 :: rest) ∨
    ((∃ rest, s.bus.pending = write32 0x010 0x01000000 :: rest) ∧ s.fifo.length = 64 ∧ s.dcd = true ∧ t.dcd = false ∧
      t.evovf = true ∧ t.fifo = s.fifo) ∨
    ((newRecords s t).countP (fun e => e.type == 1) = (if s.dcd = false ∧ t.dcd = true then 1 else 0) ∧
      (newRecords s t).countP (fun e => e.type == 2) = (if s.dcd = true ∧ t.dcd = false then 1 else 0))

/-- The gate step, whole, in every gate state: none with no signal held; in ACQ the delay counts, and LOCK follows from QG_DELAY on;
in LOCK an MSE below THR reloads the countdown, any other decrements it, and at zero the signal is lost: SIG_ABSENT with cause
0, NoSignal, and MIX, the carrier and the MSE put back, the last part with the mixer's word one that does not fault. And the
countdown is exact: from the state right after a lock (Acquiring, acq_el = 0, cd = QG_CD), with MSE ≥ THR throughout, the
signal is still held after every number of gate steps below max(QG_DELAY, 1) + QG_CD, and the step of that number loses it
(R326 to R329). -/
def Obligations.GateCountdown : Prop :=
  (∀ s : State, s.dp.gate.st = .acq → s.dp.gate.acqEl = 0 → s.dp.gate.cd = BitVec.ofNat 32 s.dp.gate.qgCd →
    1 ≤ s.dp.gate.qgCd → s.dp.gate.qgCd < 2 ^ 32 → s.dp.gate.qgDelay < 2 ^ 32 → s.fifo.length < 64 →
    F64.lt s.dp.qgMse.y s.act.thr = false →
    s.act.fc.isFinite = true → s.act.fs.isFinite = true → F64.lt F64.zero s.act.fs = true → Turns (s.act.fc.div s.act.fs) →
    let n := max s.dp.gate.qgDelay 1 + s.dp.gate.qgCd
    (∀ k < n, ∃ t, s.gateSteps k = .ok t ∧ t.dp.gate.st ≠ .noSig ∧ t.fifo = s.fifo) ∧
    ∃ t, s.gateSteps n = .ok t ∧ t.dp.gate.st = .noSig ∧ t.dp.gate.cd = 0 ∧
      t.fifo = s.fifo ++ [Event.record s.evseq (.sigAbsent (s.dp.sampleCnt.extractLsb' 0 32) false)] ∧
      t.dp.qgMse.y = ⟨0x3FF0000000000000⟩ ∧ t.dp.gate.carrier = s.act.fc ∧ t.dp.mix = { s.dp.mix with ftw := turnWord (s.act.fc.div s.act.fs) }) ∧
  ∀ s : State,
    let g := s.dp.gate
    let left := g.cd - 1
    (g.st = .noSig → s.gateStep = .ok s) ∧
    (g.st = .acq → s.gateStep = .ok { s with
      dp.gate.acqEl := g.acqEl + 1, dp.gate.st := if g.qgDelay ≤ (g.acqEl + 1).toNat then .lock else .acq }) ∧
    (g.st = .lock → F64.lt s.dp.qgMse.y s.act.thr = true → s.gateStep = .ok { s with dp.gate.cd := BitVec.ofNat 32 g.qgCd }) ∧
    (g.st = .lock → F64.lt s.dp.qgMse.y s.act.thr = false → left ≠ 0 → s.gateStep = .ok { s with dp.gate.cd := left }) ∧
    (g.st = .lock → F64.lt s.dp.qgMse.y s.act.thr = false → left = 0 →
      s.act.fc.isFinite = true → s.act.fs.isFinite = true → F64.lt F64.zero s.act.fs = true → Turns (s.act.fc.div s.act.fs) →
      s.gateStep = .ok (pushed { s with
        dp.gate.cd := 0, dp.gate.st := .noSig, dp.gate.carrier := s.act.fc
        dp.qgMse.y := ⟨0x3FF0000000000000⟩
        dp.mix.ftw := turnWord (s.act.fc.div s.act.fs) } 2 [s.dp.sampleCnt.extractLsb' 0 32, 0]))

/-- The datapath never reads the pending settings, CTRL, the operands or the results: a SAMPLE on two states that differ
only there leaves two states that differ only there (R34, R37, R42, R356, R461). -/
def Obligations.PendingSettingsAreInert : Prop :=
  ∀ (s t : State) (i q : Int) (p : Settings) (c : BitVec 4) (a0 a1 r0 r1 : F64), exec (.sample i q) s = .next t →
    exec (.sample i q) { s with pend := p, ctrl := c, arg0 := a0, arg1 := a1, res0 := r0, res1 := r1 } =
      .next { t with pend := p, ctrl := c, arg0 := a0, arg1 := a1, res0 := r0, res1 := r1 }

/-! ### Invariants that every step keeps -/

/-- Every step keeps the shape of the state: buffers of their lengths with their pointers inside, at most 64 records, at most
11 soft elements, each a byte or the sentinel, no Verifying between accesses, NC = 2^FFTP, and FAULT = 1 exactly when
ERR holds a code (R38, R40, R55, R59, R60, R63, R64, R67, R338). -/
def Obligations.ShapeIsKept : Prop := ∀ s t : State, s.WF → step s = .next t → t.WF

/-- No committed binary64 value is ever NaN or infinite: every step, every command, every sample and every APPLY keeps the
results, the active settings and the internal state finite (R19, R412). -/
def Obligations.FinitenessIsKept : Prop := ∀ s t : State, s.Finite → step s = .next t → t.Finite

/-- The reset state meets the three invariants: its shape, the acquisition views of burst mode, and every binary64
value finite, whatever the configuration functions are (R412, R450, R451). -/
def Obligations.ResetMeetsInvariants : Prop := State.reset.WF ∧ State.reset.ModeViews ∧ State.reset.Finite

/-- BT_SIG stays +0.0 in continuous mode and FREQ_EST stays +0.0 in burst mode (R47, R53). -/
def Obligations.ModeViewsAreKept : Prop := ∀ s t : State, s.ModeViews → step s = .next t → t.ModeViews

/-! ### Arithmetic (00_scope.md R16) -/

/-- Each of +, −, × and / is one correctly rounded binary64 operation, to nearest with ties to even, on finite values;
division by a value that is not zero; and sqrt is one on every finite value that is not negative (R16, R17). -/
def Obligations.ArithmeticRoundsOnce : Prop :=
  (∀ x y : F64, x.isFinite = true → y.isFinite = true →
    F64.Rounds (x.toReal + y.toReal) (x.add y) ∧ F64.Rounds (x.toReal - y.toReal) (x.sub y) ∧
    F64.Rounds (x.toReal * y.toReal) (x.mul y) ∧ (y.isZero = false → F64.Rounds (x.toReal / y.toReal) (x.div y))) ∧
  ∀ x : F64, x.isFinite = true → (x.sign = false ∨ x.isZero = true) → F64.Rounds (Real.sqrt x.toReal) x.sqrt

/-! ### The host model (60_exceptions.md section 7) -/

/-- R449: with minFreq = 0, maxFreq = 6000, bandwidth = 900 and maxTries = 15, updates 15, 30, …, 180 emit 450, 900, …,
5400, update 195 emits newFreqCenter(0.0) and scanExhausted and leaves counter 0 and fullscans 1, and update 210 leaves
counter 15 and emits 450 again; no other update emits anything. -/
def Obligations.HunterScenario : Prop :=
  let p : HunterParams := { minFreq := ⟨0⟩, maxFreq := ⟨0x40B7700000000000⟩, bandwidth := ⟨0x408C200000000000⟩, maxTries := 15 }
  (Hunter.start.absents p 195).1 = { counter := 0, fullscans := 1, dcdPrev := false } ∧
  (Hunter.start.absents p 210).1 = { counter := 15, fullscans := 1, dcdPrev := false } ∧
  (Hunter.start.absents p 210).2 =
    ((List.range 12).map fun k => (15 * (k + 1), HunterOut.newFreqCenter (F64.ofNat (450 * (k + 1))))) ++
    [(195, .newFreqCenter ⟨0⟩), (195, .scanExhausted), (210, .newFreqCenter (F64.ofNat 450))]
end

