-- ==== Sys2Proof/Laws/Float.lean ====
section
/-! SUPPORT. The one lemma about rounding that every arithmetic operation rests on: `roundPack` gives the
binary64 value nearest to an exact value, ties to even, and an infinity from the overflow threshold on
(00_scope.md R16). -/

namespace Sys2Proof

namespace F64

theorem roundShift_zero (m : ℕ) (st : Bool) : roundShift m 0 st = m := by simp [roundShift]

/-- `roundShift` is within half a unit of the exact quotient, and even when it is exactly half a unit off. -/
theorem roundShift_spec (m d : ℕ) (st : Bool) (δ : ℝ) (hd : d ≠ 0) (h0 : st = false → δ = 0)
    (h1 : st = true → 0 < δ ∧ δ < 1) :
    |(roundShift m d st : ℝ) - (m + δ) / 2 ^ d| ≤ 1 / 2 ∧
      (|(roundShift m d st : ℝ) - (m + δ) / 2 ^ d| = 1 / 2 → roundShift m d st % 2 = 0) := by
  obtain ⟨k, rfl⟩ := Nat.exists_eq_succ_of_ne_zero hd
  set h : ℕ := 2 ^ k with hh
  have hpos : 0 < h := by positivity
  have hpow : 2 ^ (k + 1) = 2 * h := by rw [hh]; ring
  have hδ0 : 0 ≤ δ ∧ δ < 1 := by
    cases st
    · simp [h0 rfl]
    · exact ⟨(h1 rfl).1.le, (h1 rfl).2⟩
  set q := m / 2 ^ (k + 1) with hq
  set r := m % 2 ^ (k + 1) with hr
  have hm : m = 2 * h * q + r := by rw [hq, hr, ← hpow]; exact (Nat.div_add_mod m _).symm
  have hrlt : r < 2 * h := by rw [hr, ← hpow]; exact Nat.mod_lt _ (by positivity)
  have hposR : (0 : ℝ) < h := by exact_mod_cast hpos
  have hx : ((m : ℝ) + δ) / 2 ^ (k + 1) = q + (r + δ) / (2 * h) := by
    have : ((2 : ℝ) ^ (k + 1)) = 2 * h := by rw [hh]; push_cast; ring
    rw [this, hm]; push_cast; field_simp; ring
  have hrR : (r : ℝ) + 1 ≤ 2 * h := by exact_mod_cast hrlt
  have hk : k + 1 - 1 = k := rfl
  rw [Nat.succ_eq_add_one, hx]
  unfold roundShift
  simp only [Nat.succ_ne_zero, if_false, hk, ← hh, ← hq, ← hr]
  set t : ℝ := (r + δ) / (2 * h) with ht
  have htmul : t * (2 * h) = r + δ := by rw [ht]; field_simp
  split_ifs with hc
  · have hhalf : 1 / 2 ≤ t := by
      rw [ht, le_div_iff₀ (by positivity)]
      rcases hc with hc | ⟨hc, -⟩
      · have : (h : ℝ) + 1 ≤ r := by exact_mod_cast hc
        linarith [hδ0.1]
      · have : (r : ℝ) = h := by exact_mod_cast hc
        linarith [hδ0.1]
    have hlt : t < 1 := by
      rw [ht, div_lt_one (by positivity)]; linarith [hδ0.2]
    have habs : |((q + 1 : ℕ) : ℝ) - (q + t)| = 1 - t := by
      push_cast; rw [show (q : ℝ) + 1 - (q + t) = 1 - t by ring, abs_of_nonneg (by linarith)]
    rw [habs]
    refine ⟨by linarith, fun he => ?_⟩
    have hthalf : t = 1 / 2 := by linarith
    rw [hthalf] at htmul
    rcases hc with hc | ⟨hc, hst | hodd⟩
    · have : (h : ℝ) + 1 ≤ r := by exact_mod_cast hc
      linarith [hδ0.1]
    · have : (r : ℝ) = h := by exact_mod_cast hc
      linarith [(h1 hst).1]
    · omega
  · have hle : t ≤ 1 / 2 ∧ (t = 1 / 2 → q % 2 = 0) := by
      push Not at hc
      rcases Nat.lt_or_ge r h with hlt | hge
      · have hR : (r : ℝ) + 1 ≤ h := by exact_mod_cast hlt
        have : t < 1 / 2 := by rw [ht, div_lt_iff₀ (by positivity)]; linarith [hδ0.2]
        exact ⟨this.le, fun e => absurd e this.ne⟩
      · have hrh : r = h := le_antisymm hc.1 hge
        obtain ⟨hst, hev⟩ := hc.2 hrh
        have : δ = 0 := h0 (by simpa using hst)
        have hR : (r : ℝ) = h := by exact_mod_cast hrh
        have : t = 1 / 2 := by rw [ht, div_eq_iff (by positivity)]; rw [this]; linarith
        exact ⟨this.le, fun _ => by omega⟩
    have ht0 : 0 ≤ t := by rw [ht]; have := hδ0.1; positivity
    have habs : |(q : ℝ) - (q + t)| = t := by
      rw [show (q : ℝ) - (q + t) = -t by ring, abs_neg, abs_of_nonneg ht0]
    rw [habs]
    exact ⟨hle.1, hle.2⟩

/-- The bits of a packed magnitude. -/
theorem pack_bits (s : Bool) (b : ℕ) (hb : b < 2 ^ 63) :
    (pack s b).bits.toNat = (if s then 2 ^ 63 else 0) + b := by
  unfold pack
  rw [BitVec.toNat_ofNat, Nat.mod_eq_of_lt]
  split <;> omega

theorem pack_sign (s : Bool) (b : ℕ) (hb : b < 2 ^ 63) : (pack s b).sign = s := by
  unfold sign
  rw [BitVec.msb_eq_decide, pack_bits s b hb]
  cases s <;> simp; omega

theorem pack_expField (s : Bool) (b : ℕ) (hb : b < 2 ^ 63) : (pack s b).expField = b / 2 ^ 52 := by
  unfold expField
  rw [pack_bits s b hb]
  cases s <;> simp <;> omega

theorem pack_frac (s : Bool) (b : ℕ) (hb : b < 2 ^ 63) : (pack s b).frac = b % 2 ^ 52 := by
  unfold frac
  rw [pack_bits s b hb]
  cases s <;> simp; omega

theorem frac_lt (x : F64) : x.frac < 2 ^ 52 := Nat.mod_lt _ (by positivity)

theorem mant_lt (x : F64) : x.mant < 2 ^ 53 := by
  have := frac_lt x
  unfold mant; split <;> omega

theorem expo_ge (x : F64) : -1074 ≤ x.expo := by
  unfold expo; split <;> omega

/-- The sign of a value as a factor. -/
noncomputable def signFactor (s : Bool) : ℝ := if s then -1 else 1

theorem toReal_eq (x : F64) : x.toReal = signFactor x.sign * x.mant * (2 : ℝ) ^ x.expo := by
  unfold toReal toRat signFactor
  split <;> push_cast <;> ring

/-- The value of a packed significand `r` at the exponent `q`. -/
theorem pack_value (s : Bool) (q : ℤ) (r : ℕ) (hq : -1074 ≤ q) (hr : r ≤ 2 ^ 53)
    (hn : q = -1074 ∨ 2 ^ 52 ≤ r) (hb : (q + 1074).toNat * 2 ^ 52 + r < 2047 * 2 ^ 52) :
    let x := pack s ((q + 1074).toNat * 2 ^ 52 + r)
    x.isFinite = true ∧ x.toReal = signFactor s * r * (2 : ℝ) ^ q ∧ (r % 2 = 0 → x.mant % 2 = 0) := by
  intro x
  obtain ⟨n, rfl⟩ : ∃ n : ℕ, q = n - 1074 := ⟨(q + 1074).toNat, by omega⟩
  have hn' : ((n : ℤ) - 1074 + 1074).toNat = n := by omega
  rw [hn'] at hb
  have hx : x = pack s (n * 2 ^ 52 + r) := by simp only [x, hn']
  have hb' : n * 2 ^ 52 + r < 2 ^ 63 := by omega
  have hs : x.sign = s := by rw [hx]; exact pack_sign s _ hb'
  have he : x.expField = (n * 2 ^ 52 + r) / 2 ^ 52 := by rw [hx]; exact pack_expField s _ hb'
  have hf : x.frac = (n * 2 ^ 52 + r) % 2 ^ 52 := by rw [hx]; exact pack_frac s _ hb'
  refine ⟨by simp only [isFinite, bne_iff_ne, he]; omega, ?_⟩
  rw [toReal_eq, hs]
  rcases Nat.lt_or_ge r (2 ^ 52) with h1 | h1
  · have hn0 : n = 0 := by omega
    have he0 : x.expField = 0 := by omega
    have hm : x.mant = r := by unfold mant; rw [he0, if_pos rfl, hf]; omega
    have hex : x.expo = -1074 := by unfold expo; rw [he0]; rfl
    rw [hm, hex, hn0]
    exact ⟨by norm_num, id⟩
  · rcases Nat.lt_or_ge r (2 ^ 53) with h2 | h2
    · have he1 : x.expField = n + 1 := by omega
      have hm : x.mant = r := by unfold mant; rw [he1, if_neg (by omega), hf]; omega
      have hex : x.expo = n - 1074 := by
        unfold expo; rw [he1, if_neg (by omega)]; push_cast; ring
      rw [hm, hex]
      exact ⟨rfl, id⟩
    · have hr2 : r = 2 ^ 53 := le_antisymm hr h2
      have he1 : x.expField = n + 2 := by omega
      have hm : x.mant = 2 ^ 52 := by unfold mant; rw [he1, if_neg (by omega), hf]; omega
      have hex : x.expo = (n - 1074) + 1 := by
        unfold expo; rw [he1, if_neg (by omega)]; push_cast; ring
      rw [hm, hex, hr2]
      refine ⟨?_, fun _ => by norm_num⟩
      rw [zpow_add₀ (by norm_num : (2 : ℝ) ≠ 0)]
      push_cast; ring

/-- Rounding to a grid rounds to binary64: if `r` is an integer within half a unit of `x = |v| / 2^q`, even when
exactly half a unit off, then the packed value is nearest to `v` with ties to even. -/
theorem nearest_of_grid (s : Bool) (q : ℤ) (r : ℕ) (x : ℝ) (hq : -1074 ≤ q) (hr : r ≤ 2 ^ 53)
    (hn : q = -1074 ∨ (2 : ℝ) ^ 52 ≤ x) (hn' : q = -1074 ∨ 2 ^ 52 ≤ r)
    (hb : (q + 1074).toNat * 2 ^ 52 + r < 2047 * 2 ^ 52) (hhalf : |(r : ℝ) - x| ≤ 1 / 2)
    (heven : |(r : ℝ) - x| = 1 / 2 → r % 2 = 0) :
    NearestEven (signFactor s * x * (2 : ℝ) ^ q) (pack s ((q + 1074).toNat * 2 ^ 52 + r)) := by
  obtain ⟨hfin, hval, hev⟩ := pack_value s q r hq hr hn' hb
  set y := pack s ((q + 1074).toNat * 2 ^ 52 + r) with hy
  refine ⟨hfin, fun z hz => ?_⟩
  have hσ : signFactor s * signFactor s = 1 := by unfold signFactor; split <;> norm_num
  have hσabs : |signFactor s| = 1 := by unfold signFactor; split <;> norm_num
  have hP : (0 : ℝ) < 2 ^ q := by positivity
  -- every finite value in units of 2^q and turned to the sign of v
  set w : ℝ := signFactor s * z.toReal / 2 ^ q with hw
  have hzw : z.toReal = signFactor s * w * 2 ^ q := by
    rw [hw]; field_simp; rw [pow_two, hσ, mul_one]
  have hdy : |y.toReal - signFactor s * x * 2 ^ q| = |(r : ℝ) - x| * 2 ^ q := by
    rw [hval, show signFactor s * r * 2 ^ q - signFactor s * x * 2 ^ q = signFactor s * ((r - x) * 2 ^ q) by ring,
      abs_mul, hσabs, one_mul, abs_mul, abs_of_pos hP]
  have hdz : |z.toReal - signFactor s * x * 2 ^ q| = |w - x| * 2 ^ q := by
    rw [hzw, show signFactor s * w * 2 ^ q - signFactor s * x * 2 ^ q = signFactor s * ((w - x) * 2 ^ q) by ring,
      abs_mul, hσabs, one_mul, abs_mul, abs_of_pos hP]
  rw [hdy, hdz]
  -- either w is an integer, or w < 2^52 ≤ x
  have key : (∃ k : ℤ, w = k) ∨ (w < 2 ^ 52 ∧ (2 : ℝ) ^ 52 ≤ x) := by
    rcases le_or_gt q z.expo with hE | hE
    · left
      obtain ⟨j, hj⟩ : ∃ j : ℕ, z.expo = q + j := ⟨(z.expo - q).toNat, by omega⟩
      have hz' : w = signFactor s * signFactor z.sign * (z.mant * 2 ^ j : ℕ) := by
        rw [hw, toReal_eq, hj, zpow_add₀ (by norm_num : (2 : ℝ) ≠ 0), zpow_natCast]
        push_cast; field_simp
      have hss : signFactor s * signFactor z.sign = 1 ∨ signFactor s * signFactor z.sign = -1 := by
        unfold signFactor; split <;> split <;> norm_num
      rcases hss with h | h
      · exact ⟨(z.mant * 2 ^ j : ℕ), by rw [hz', h]; push_cast; ring⟩
      · exact ⟨-(z.mant * 2 ^ j : ℕ), by rw [hz', h]; push_cast; ring⟩
    · right
      have hq' : q ≠ -1074 := by have := expo_ge z; omega
      refine ⟨?_, hn.resolve_left hq'⟩
      have hzabs : |z.toReal| < 2 ^ 52 * 2 ^ q := by
        rw [toReal_eq, abs_mul, abs_mul]
        have h1 : |signFactor z.sign| = 1 := by unfold signFactor; split <;> norm_num
        rw [h1, one_mul, Nat.abs_cast, abs_of_pos (by positivity)]
        have hm : (z.mant : ℝ) < 2 ^ 53 := by exact_mod_cast mant_lt z
        have he : (2 : ℝ) ^ z.expo ≤ 2 ^ (q - 1) := zpow_le_zpow_right₀ (by norm_num) (by omega)
        have h2 : (2 : ℝ) ^ q = 2 * 2 ^ (q - 1) := by
          rw [zpow_sub₀ (by norm_num : (2 : ℝ) ≠ 0)]; ring
        calc (z.mant : ℝ) * 2 ^ z.expo ≤ z.mant * 2 ^ (q - 1) := by gcongr
          _ < 2 ^ 53 * 2 ^ (q - 1) := by gcongr
          _ = 2 ^ 52 * 2 ^ q := by rw [h2]; ring
      have : |w| < 2 ^ 52 := by
        rw [hw, abs_div, abs_mul, hσabs, one_mul, abs_of_pos hP, div_lt_iff₀ hP]; exact hzabs
      exact lt_of_le_of_lt (le_abs_self w) this
  have step : |(r : ℝ) - x| ≤ |w - x| ∧ (|(r : ℝ) - x| = |w - x| → w = r ∨ r % 2 = 0) := by
    -- among integers
    have hint : ∀ k : ℤ, |(r : ℝ) - x| ≤ |(k : ℝ) - x| ∧
        (|(r : ℝ) - x| = |(k : ℝ) - x| → (k : ℝ) = r ∨ r % 2 = 0) := by
      intro k
      by_cases hk : k = r
      · subst hk; simp
      · have h1 : (1 : ℝ) ≤ |(k : ℝ) - r| := by
          have : (1 : ℤ) ≤ |k - r| := Int.one_le_abs (by omega)
          exact_mod_cast this
        have h2 : |(k : ℝ) - r| ≤ |(k : ℝ) - x| + |(r : ℝ) - x| := by
          rw [abs_sub_comm (r : ℝ) x]
          calc |(k : ℝ) - r| = |(k - x) + (x - r)| := by ring_nf
            _ ≤ _ := abs_add_le _ _
        refine ⟨by linarith, fun he => Or.inr (heven (by linarith))⟩
    rcases key with ⟨k, hk⟩ | ⟨hlt, hge⟩
    · rw [hk]; exact hint k
    · have h52 := hint (2 ^ 52)
      have habs : |((2 ^ 52 : ℤ) : ℝ) - x| = x - 2 ^ 52 := by
        push_cast; rw [abs_of_nonpos (by linarith)]; ring
      have habs2 : |w - x| = x - w := by rw [abs_of_nonpos (by linarith)]; ring
      rw [habs] at h52
      rw [habs2]
      exact ⟨by linarith [h52.1], fun he => absurd he (by linarith [h52.1])⟩
  refine ⟨mul_le_mul_of_nonneg_right step.1 hP.le, fun he => ?_⟩
  rcases step.2 (mul_right_cancel₀ hP.ne' he) with h | h
  · left; rw [hval, hzw, h]
  · exact Or.inr (hev h)

/-- The exact value `(m + δ) × 2^e` that `roundPack` rounds; `δ` is what lies below the unit of `m`. -/
noncomputable def exactOf (s : Bool) (m : ℕ) (e : ℤ) (δ : ℝ) : ℝ := signFactor s * (m + δ) * (2 : ℝ) ^ e

theorem pack_inf (s : Bool) : pack s (2047 * 2 ^ 52) = if s then inf.neg else inf := by
  cases s <;> decide

/-- `roundPack` is correct rounding (R16). Where bits lie below the unit of `m` (`sticky`), `m` must have at
least 54 bits, so that they can only decide ties. -/
theorem roundPack_rounds (s : Bool) (m : ℕ) (e : ℤ) (st : Bool) (δ : ℝ) (hm : m ≠ 0) (h0 : st = false → δ = 0)
    (h1 : st = true → 0 < δ ∧ δ < 1 ∧ 2 ^ 53 ≤ m) : Rounds (exactOf s m e δ) (roundPack s m e st) := by
  have hδ0 : 0 ≤ δ ∧ δ < 1 := by
    cases st
    · simp [h0 rfl]
    · exact ⟨(h1 rfl).1.le, (h1 rfl).2.1⟩
  set L := Nat.log2 m with hL
  have hLlo : 2 ^ L ≤ m := Nat.log2_self_le hm
  have hLhi : m < 2 ^ (L + 1) := Nat.lt_log2_self
  set q : ℤ := lastPlace m e with hq
  have hqdef : q = max (e + L - 52) (-1074) := by rw [hq, lastPlace]
  have hq1 : -1074 ≤ q := by omega
  set r : ℕ := if q ≤ e then m * 2 ^ (e - q).toNat else roundShift m (q - e).toNat st with hr
  set x : ℝ := (m + δ) * 2 ^ e / 2 ^ q with hx
  have hP : (0 : ℝ) < 2 ^ q := by positivity
  have hmpos : (0 : ℝ) < m := by exact_mod_cast Nat.pos_of_ne_zero hm
  have hx0 : 0 ≤ x := by rw [hx]; have := hδ0.1; positivity
  -- the sticky bit is only set where bits are dropped
  have hstd : q ≤ e → st = false := by
    intro hle
    by_contra hc
    have hst : st = true := by simpa using hc
    have h53 := (h1 hst).2.2
    have : 53 ≤ L := by
      by_contra hlt
      have : m < 2 ^ 53 := lt_of_lt_of_le hLhi (Nat.pow_le_pow_right (by norm_num) (by omega))
      omega
    omega
  -- r is the nearest integer to x
  have hround : |(r : ℝ) - x| ≤ 1 / 2 ∧ (|(r : ℝ) - x| = 1 / 2 → r % 2 = 0) := by
    by_cases hle : q ≤ e
    · obtain ⟨j, hj⟩ : ∃ j : ℕ, e = q + j := ⟨(e - q).toNat, by omega⟩
      have hjn : (e - q).toNat = j := by omega
      have hx' : x = r := by
        rw [hx, hr, if_pos hle, hjn, h0 (hstd hle), hj, zpow_add₀ (by norm_num : (2 : ℝ) ≠ 0), zpow_natCast]
        push_cast; field_simp; ring
      rw [hx']
      norm_num
    · have hd : (q - e).toNat ≠ 0 := by omega
      have hx' : x = (m + δ) / 2 ^ (q - e).toNat := by
        rw [hx, mul_div_assoc, ← zpow_sub₀ (by norm_num : (2 : ℝ) ≠ 0), ← zpow_natCast,
          show ((q - e).toNat : ℤ) = q - e by omega, div_eq_mul_inv _ ((2 : ℝ) ^ (q - e)), ← zpow_neg]
        ring_nf
      rw [hx', hr, if_neg hle]
      exact roundShift_spec m _ st δ hd h0 (fun h => ⟨(h1 h).1, (h1 h).2.1⟩)
  -- bounds of x
  have hmlo : (2 : ℝ) ^ L ≤ m := by exact_mod_cast hLlo
  have hmhi : (m : ℝ) + δ < 2 ^ (L + 1) := by
    have : (m : ℝ) + 1 ≤ 2 ^ (L + 1) := by exact_mod_cast hLhi
    linarith [hδ0.2]
  have hxhi : x < 2 ^ 53 := by
    have h : (2 : ℝ) ^ (L + 1) * 2 ^ e ≤ 2 ^ 53 * 2 ^ q := by
      rw [← zpow_natCast, ← zpow_natCast, ← zpow_add₀ (by norm_num : (2 : ℝ) ≠ 0),
        ← zpow_add₀ (by norm_num : (2 : ℝ) ≠ 0)]
      exact zpow_le_zpow_right₀ (by norm_num) (by push_cast; omega)
    rw [hx, div_lt_iff₀ hP]
    calc ((m : ℝ) + δ) * 2 ^ e < 2 ^ (L + 1) * 2 ^ e := by gcongr
      _ ≤ _ := h
  have hxlo : q = -1074 ∨ (2 : ℝ) ^ 52 ≤ x := by
    rcases eq_or_ne q (-1074) with h | h
    · exact Or.inl h
    · right
      have hqe : q = e + L - 52 := by omega
      rw [hx, le_div_iff₀ hP]
      calc (2 : ℝ) ^ 52 * 2 ^ q = 2 ^ L * 2 ^ e := by
            rw [hqe, ← zpow_natCast, ← zpow_natCast, ← zpow_add₀ (by norm_num : (2 : ℝ) ≠ 0),
              ← zpow_add₀ (by norm_num : (2 : ℝ) ≠ 0)]
            congr 1; push_cast; ring
        _ ≤ (m + δ) * 2 ^ e := by
            have := hδ0.1
            gcongr; linarith
  have hrhi : r ≤ 2 ^ 53 := by
    have h := abs_le.mp hround.1
    have : (r : ℝ) < 2 ^ 53 + 1 := by linarith
    have : r < 2 ^ 53 + 1 := by exact_mod_cast this
    omega
  have hrlo : q = -1074 ∨ 2 ^ 52 ≤ r := by
    refine hxlo.imp id fun h => ?_
    have h' := abs_le.mp hround.1
    have : (2 : ℝ) ^ 52 - 1 < r := by linarith
    have : (2 : ℝ) ^ 52 < r + 1 := by linarith
    have : 2 ^ 52 < r + 1 := by exact_mod_cast this
    omega
  set b : ℕ := (q + 1074).toNat * 2 ^ 52 + r with hb
  have hpack : roundPack s m e st = pack s (if b < 2047 * 2 ^ 52 then b else 2047 * 2 ^ 52) := by
    unfold roundPack
    rw [if_neg hm]
  have hv : exactOf s m e δ = signFactor s * x * 2 ^ q := by
    unfold exactOf; rw [hx]; field_simp
  have hσabs : |signFactor s| = 1 := by unfold signFactor; split <;> norm_num
  have habs : |exactOf s m e δ| = x * 2 ^ q := by
    rw [hv, abs_mul, abs_mul, hσabs, one_mul, abs_of_nonneg hx0, abs_of_pos hP]
  have hbound : overflowBound = (2 ^ 53 - 1 / 2) * 2 ^ (971 : ℤ) := by
    unfold overflowBound
    have h1 : (2 : ℝ) ^ 1024 = 2 ^ (1024 : ℤ) := (zpow_natCast 2 1024).symm
    have h2 : (2 : ℝ) ^ 970 = 2 ^ (970 : ℤ) := (zpow_natCast 2 970).symm
    have h3 : (2 : ℝ) ^ 53 * 2 ^ (971 : ℤ) = 2 ^ (1024 : ℤ) := by
      rw [← zpow_natCast, ← zpow_add₀ (by norm_num : (2 : ℝ) ≠ 0)]; norm_num
    have h4 : (2 : ℝ) ^ (971 : ℤ) = 2 * 2 ^ (970 : ℤ) := by
      rw [show (971 : ℤ) = 970 + 1 by norm_num, zpow_add₀ (by norm_num : (2 : ℝ) ≠ 0)]; ring
    rw [sub_mul, h3, h1, h2, h4]; ring
  -- overflow exactly from the threshold on
  have hover : b < 2047 * 2 ^ 52 ↔ x * 2 ^ q < overflowBound := by
    rw [hbound]
    rcases lt_trichotomy q 971 with h | h | h
    · have hb' : b < 2047 * 2 ^ 52 := by omega
      refine ⟨fun _ => ?_, fun _ => hb'⟩
      have hle : (2 : ℝ) ^ q ≤ 2 ^ (970 : ℤ) := zpow_le_zpow_right₀ (by norm_num) (by omega)
      have h971 : (2 : ℝ) ^ (971 : ℤ) = 2 * 2 ^ (970 : ℤ) := by
        rw [show (971 : ℤ) = 970 + 1 by norm_num, zpow_add₀ (by norm_num : (2 : ℝ) ≠ 0)]; ring
      have hpos : (0 : ℝ) < 2 ^ (970 : ℤ) := by positivity
      calc x * 2 ^ q ≤ 2 ^ 53 * 2 ^ (970 : ℤ) := by
            apply mul_le_mul hxhi.le hle hP.le (by positivity)
        _ < (2 ^ 53 - 1 / 2) * 2 ^ (971 : ℤ) := by
            rw [h971, show ((2 : ℝ) ^ 53 - 1 / 2) * (2 * 2 ^ (970 : ℤ)) = (2 * 2 ^ 53 - 1) * 2 ^ (970 : ℤ) by ring]
            apply mul_lt_mul_of_pos_right _ hpos
            norm_num
    · have hiff : b < 2047 * 2 ^ 52 ↔ r < 2 ^ 53 := by rw [hb, h]; norm_num; omega
      rw [hiff, h]
      have hpos : (0 : ℝ) < 2 ^ (971 : ℤ) := by positivity
      constructor
      · intro hlt
        apply mul_lt_mul_of_pos_right _ hpos
        have h' := abs_le.mp hround.1
        have hr1 : (r : ℝ) + 1 ≤ 2 ^ 53 := by exact_mod_cast hlt
        rcases lt_or_eq_of_le (show x ≤ 2 ^ 53 - 1 / 2 by linarith) with h | h
        · exact h
        · exfalso
          have hr2 : (r : ℝ) = 2 ^ 53 - 1 := by linarith
          have heq : |(r : ℝ) - x| = 1 / 2 := by rw [hr2, h]; norm_num
          have hev := hround.2 heq
          have : r = 2 ^ 53 - 1 := by
            have : (r : ℝ) + 1 = 2 ^ 53 := by linarith
            have : r + 1 = 2 ^ 53 := by exact_mod_cast this
            omega
          omega
      · intro hlt
        have hx' : x < 2 ^ 53 - 1 / 2 := lt_of_mul_lt_mul_right hlt hpos.le
        have h' := abs_le.mp hround.1
        have : (r : ℝ) < 2 ^ 53 := lt_of_le_of_lt (sub_le_iff_le_add'.mp h'.2) (by rw [lt_sub_iff_add_lt] at hx'; exact hx')
        exact_mod_cast this
    · have hr52 : 2 ^ 52 ≤ r := hrlo.resolve_left (by omega)
      have hx52 : (2 : ℝ) ^ 52 ≤ x := hxlo.resolve_left (by omega)
      refine ⟨fun hlt => by omega, fun hlt => absurd hlt (not_lt.mpr ?_)⟩
      have hle : (2 : ℝ) ^ (972 : ℤ) ≤ 2 ^ q := zpow_le_zpow_right₀ (by norm_num) (by omega)
      have h971 : (2 : ℝ) ^ (972 : ℤ) = 2 * 2 ^ (971 : ℤ) := by
        rw [show (972 : ℤ) = 971 + 1 by norm_num, zpow_add₀ (by norm_num : (2 : ℝ) ≠ 0)]; ring
      calc ((2 : ℝ) ^ 53 - 1 / 2) * 2 ^ (971 : ℤ) ≤ 2 ^ 52 * 2 ^ (972 : ℤ) := by
            rw [h971, show (2 : ℝ) ^ 52 * (2 * 2 ^ (971 : ℤ)) = 2 ^ 53 * 2 ^ (971 : ℤ) by ring]
            apply mul_le_mul_of_nonneg_right _ (by positivity)
            norm_num
        _ ≤ x * 2 ^ q := mul_le_mul hx52 hle (by positivity) hx0
  have hbpos : (0 : ℝ) < overflowBound := by rw [hbound]; positivity
  refine ⟨fun hlt => ?_, fun hge => ?_, fun hle => ?_⟩
  · rw [habs] at hlt
    rw [hpack, if_pos (hover.mpr hlt), hv]
    exact nearest_of_grid s q r x hq1 hrhi hxlo hrlo (hover.mpr hlt) hround.1 hround.2
  · have hxq : overflowBound ≤ x * 2 ^ q := by rw [← habs]; exact le_trans hge (le_abs_self _)
    rw [hpack, if_neg (fun hc => absurd (hover.mp hc) (not_lt.mpr hxq)), pack_inf]
    cases s
    · rfl
    · exfalso
      have : exactOf true m e δ ≤ 0 := by
        rw [hv, mul_assoc]; have : 0 ≤ x * 2 ^ q := by positivity
        simpa [signFactor] using this
      exact absurd (lt_of_lt_of_le hbpos hge) (not_lt.mpr this)
  · have hxq : overflowBound ≤ x * 2 ^ q := by
      rw [← habs]; exact le_trans (by linarith) (neg_le_abs _)
    rw [hpack, if_neg (fun hc => absurd (hover.mp hc) (not_lt.mpr hxq)), pack_inf]
    cases s
    · exfalso
      have : 0 ≤ exactOf false m e δ := by
        rw [hv]; have : 0 ≤ x * 2 ^ q := by positivity
        simpa [signFactor] using this
      exact absurd (lt_of_lt_of_le (neg_lt_zero.mpr hbpos) this) (not_lt.mpr hle)
    · rfl

end F64

end Sys2Proof
end

