-- ==== Sys2Proof/Laws/Config.lean ====
section
/-! SUPPORT. The ranges of the configuration functions (00_scope.md R17) and the orderings of binary64 that
`min`, `max` and `clamp` rest on (R16, R26). -/

namespace Sys2Proof

namespace F64

theorem isFinite_not_isNaN {x : F64} (h : x.isFinite = true) : x.isNaN = false := by
  simp only [isFinite, bne_iff_ne] at h
  simp [isNaN, h]

/-- The order of the values that are not NaN is the order of their keys (R16). -/
theorem le_iff {x y : F64} : le x y = true ↔ x.isNaN = false ∧ y.isNaN = false ∧ x.key ≤ y.key := by
  simp [le, and_assoc]

theorem lt_iff {x y : F64} : lt x y = true ↔ x.isNaN = false ∧ y.isNaN = false ∧ x.key < y.key := by
  simp [lt, and_assoc]

theorem le_trans' {x y z : F64} (h1 : le x y = true) (h2 : le y z = true) : le x z = true := by
  rw [le_iff] at *
  exact ⟨h1.1, h2.2.1, h1.2.2.trans h2.2.2⟩

theorem le_refl' {x : F64} (h : x.isNaN = false) : le x x = true := by
  rw [le_iff]; exact ⟨h, h, le_refl _⟩

/-- `min` of two values that are not NaN is one of them and below both (R16). -/
theorem fmin_spec {x y : F64} (hx : x.isNaN = false) (hy : y.isNaN = false) :
    (fmin x y = x ∨ fmin x y = y) ∧ le (fmin x y) x = true ∧ le (fmin x y) y = true := by
  unfold fmin
  rw [if_neg (by simp [hx, hy])]
  split_ifs with h1 h2 h3 h4 <;> simp_all [le_iff, lt_iff]; omega

/-- `max` of two values that are not NaN is one of them and above both (R16). -/
theorem fmax_spec {x y : F64} (hx : x.isNaN = false) (hy : y.isNaN = false) :
    (fmax x y = x ∨ fmax x y = y) ∧ le x (fmax x y) = true ∧ le y (fmax x y) = true := by
  unfold fmax
  rw [if_neg (by simp [hx, hy])]
  split_ifs with h1 h2 h3 h4 <;> simp_all [le_iff, lt_iff]; omega

/-- A value between two finite ones is finite. -/
theorem isFinite_of_between {lo x hi : F64} (hlo : lo.isFinite = true) (hhi : hi.isFinite = true)
    (h1 : le lo x = true) (h2 : le x hi = true) : x.isFinite = true := by
  rw [le_iff] at h1 h2
  have key_eq : ∀ y : F64, y.mag = y.expField * 2 ^ 52 + y.frac := by
    intro y; unfold mag expField frac; omega
  have hx := h1.2.1
  simp only [isFinite, bne_iff_ne, isNaN, Bool.and_eq_false_iff, beq_eq_false_iff_ne, bne_eq_false_iff_eq] at *
  have e1 := key_eq lo; have e2 := key_eq x; have e3 := key_eq hi
  have f1 := frac_lt lo; have f2 := frac_lt x; have f3 := frac_lt hi
  have b : ∀ y : F64, y.expField < 2048 := fun y => Nat.mod_lt _ (by norm_num)
  have b1 := b lo; have b3 := b hi
  intro hc
  have hk1 := h1.2.2; have hk2 := h2.2.2
  unfold key at hk1 hk2
  split_ifs at hk1 hk2 <;> omega

end F64

namespace Config

open F64

theorem within_spec {lo hi other r : F64} (ho : le lo other = true ∧ le other hi = true) :
    le lo (within lo hi other r) = true ∧ le (within lo hi other r) hi = true := by
  unfold within
  split
  · rename_i h; simpa using h
  · exact ho

theorem sin_range (x : F64) : le negOne (sin x) = true ∧ le (sin x) one = true := within_spec (by decide)

theorem cos_range (x : F64) : le negOne (cos x) = true ∧ le (cos x) one = true := within_spec (by decide)

theorem atan2_range (y x : F64) : le pi.neg (atan2 y x) = true ∧ le (atan2 y x) pi = true := within_spec (by decide)

theorem sin_finite (x : F64) : (sin x).isFinite = true :=
  isFinite_of_between (by decide) (by decide) (sin_range x).1 (sin_range x).2

theorem cos_finite (x : F64) : (cos x).isFinite = true :=
  isFinite_of_between (by decide) (by decide) (cos_range x).1 (cos_range x).2

end Config

/-- An oscillator output is finite at every phase (R24, R17). -/
theorem cis_finite (p : Word) : (cis p).re.isFinite = true ∧ (cis p).im.isFinite = true := by
  unfold cis
  split_ifs
  · exact ⟨by decide, by decide⟩
  · exact ⟨by decide, by decide⟩
  · exact ⟨by decide, by decide⟩
  · exact ⟨by decide, by decide⟩
  · exact ⟨Config.cos_finite _, Config.sin_finite _⟩

end Sys2Proof
end

