-- ==== Sys2Proof/Laws/State.lean ====
section
/-! SUPPORT. One lemma for each field under each named update of the state (Machine/Ops.lean, Flags.lean,
Oscillator.lean, Operands.lean), true by `rfl` or by a case split of the update, so that no proof unfolds a record
update. -/

namespace Sys2Proof.Machine

/-! ### setRes0 (R34) -/

@[simp] theorem State.setRes0_arg0 (s : State) (x : F64) : (s.setRes0 x).arg0 = s.arg0 := rfl

@[simp] theorem State.setRes0_arg1 (s : State) (x : F64) : (s.setRes0 x).arg1 = s.arg1 := rfl

@[simp] theorem State.setRes0_res0 (s : State) (x : F64) : (s.setRes0 x).res0 = x := rfl

@[simp] theorem State.setRes0_res1 (s : State) (x : F64) : (s.setRes0 x).res1 = s.res1 := rfl

@[simp] theorem State.setRes0_pend (s : State) (x : F64) : (s.setRes0 x).pend = s.pend := rfl

@[simp] theorem State.setRes0_ctrl (s : State) (x : F64) : (s.setRes0 x).ctrl = s.ctrl := rfl

@[simp] theorem State.setRes0_act (s : State) (x : F64) : (s.setRes0 x).act = s.act := rfl

@[simp] theorem State.setRes0_dp (s : State) (x : F64) : (s.setRes0 x).dp = s.dp := rfl

@[simp] theorem State.setRes0_fifo (s : State) (x : F64) : (s.setRes0 x).fifo = s.fifo := rfl

@[simp] theorem State.setRes0_evseq (s : State) (x : F64) : (s.setRes0 x).evseq = s.evseq := rfl

@[simp] theorem State.setRes0_evovf (s : State) (x : F64) : (s.setRes0 x).evovf = s.evovf := rfl

@[simp] theorem State.setRes0_ovr (s : State) (x : F64) : (s.setRes0 x).ovr = s.ovr := rfl

@[simp] theorem State.setRes0_fault (s : State) (x : F64) : (s.setRes0 x).fault = s.fault := rfl

@[simp] theorem State.setRes0_err (s : State) (x : F64) : (s.setRes0 x).err = s.err := rfl

@[simp] theorem State.setRes0_errInfo (s : State) (x : F64) : (s.setRes0 x).errInfo = s.errInfo := rfl

@[simp] theorem State.setRes0_bus (s : State) (x : F64) : (s.setRes0 x).bus = s.bus := rfl

/-! ### setRes (R34) -/

@[simp] theorem State.setRes_arg0 (s : State) (z : Cplx) : (s.setRes z).arg0 = s.arg0 := rfl

@[simp] theorem State.setRes_arg1 (s : State) (z : Cplx) : (s.setRes z).arg1 = s.arg1 := rfl

@[simp] theorem State.setRes_res0 (s : State) (z : Cplx) : (s.setRes z).res0 = z.re := rfl

@[simp] theorem State.setRes_res1 (s : State) (z : Cplx) : (s.setRes z).res1 = z.im := rfl

@[simp] theorem State.setRes_pend (s : State) (z : Cplx) : (s.setRes z).pend = s.pend := rfl

@[simp] theorem State.setRes_ctrl (s : State) (z : Cplx) : (s.setRes z).ctrl = s.ctrl := rfl

@[simp] theorem State.setRes_act (s : State) (z : Cplx) : (s.setRes z).act = s.act := rfl

@[simp] theorem State.setRes_dp (s : State) (z : Cplx) : (s.setRes z).dp = s.dp := rfl

@[simp] theorem State.setRes_fifo (s : State) (z : Cplx) : (s.setRes z).fifo = s.fifo := rfl

@[simp] theorem State.setRes_evseq (s : State) (z : Cplx) : (s.setRes z).evseq = s.evseq := rfl

@[simp] theorem State.setRes_evovf (s : State) (z : Cplx) : (s.setRes z).evovf = s.evovf := rfl

@[simp] theorem State.setRes_ovr (s : State) (z : Cplx) : (s.setRes z).ovr = s.ovr := rfl

@[simp] theorem State.setRes_fault (s : State) (z : Cplx) : (s.setRes z).fault = s.fault := rfl

@[simp] theorem State.setRes_err (s : State) (z : Cplx) : (s.setRes z).err = s.err := rfl

@[simp] theorem State.setRes_errInfo (s : State) (z : Cplx) : (s.setRes z).errInfo = s.errInfo := rfl

@[simp] theorem State.setRes_bus (s : State) (z : Cplx) : (s.setRes z).bus = s.bus := rfl

/-! ### setOsc (R150) -/

@[simp] theorem State.setOsc_arg0 (s : State) (k : OscId) (o : Osc) : (s.setOsc k o).arg0 = s.arg0 := by cases k <;> rfl

@[simp] theorem State.setOsc_arg1 (s : State) (k : OscId) (o : Osc) : (s.setOsc k o).arg1 = s.arg1 := by cases k <;> rfl

@[simp] theorem State.setOsc_res0 (s : State) (k : OscId) (o : Osc) : (s.setOsc k o).res0 = s.res0 := by cases k <;> rfl

@[simp] theorem State.setOsc_res1 (s : State) (k : OscId) (o : Osc) : (s.setOsc k o).res1 = s.res1 := by cases k <;> rfl

@[simp] theorem State.setOsc_pend (s : State) (k : OscId) (o : Osc) : (s.setOsc k o).pend = s.pend := by cases k <;> rfl

@[simp] theorem State.setOsc_ctrl (s : State) (k : OscId) (o : Osc) : (s.setOsc k o).ctrl = s.ctrl := by cases k <;> rfl

@[simp] theorem State.setOsc_act (s : State) (k : OscId) (o : Osc) : (s.setOsc k o).act = s.act := by cases k <;> rfl

@[simp] theorem State.setOsc_fifo (s : State) (k : OscId) (o : Osc) : (s.setOsc k o).fifo = s.fifo := by cases k <;> rfl

@[simp] theorem State.setOsc_evseq (s : State) (k : OscId) (o : Osc) : (s.setOsc k o).evseq = s.evseq := by cases k <;> rfl

@[simp] theorem State.setOsc_evovf (s : State) (k : OscId) (o : Osc) : (s.setOsc k o).evovf = s.evovf := by cases k <;> rfl

@[simp] theorem State.setOsc_ovr (s : State) (k : OscId) (o : Osc) : (s.setOsc k o).ovr = s.ovr := by cases k <;> rfl

@[simp] theorem State.setOsc_fault (s : State) (k : OscId) (o : Osc) : (s.setOsc k o).fault = s.fault := by cases k <;> rfl

@[simp] theorem State.setOsc_err (s : State) (k : OscId) (o : Osc) : (s.setOsc k o).err = s.err := by cases k <;> rfl

@[simp] theorem State.setOsc_errInfo (s : State) (k : OscId) (o : Osc) : (s.setOsc k o).errInfo = s.errInfo := by cases k <;> rfl

@[simp] theorem State.setOsc_bus (s : State) (k : OscId) (o : Osc) : (s.setOsc k o).bus = s.bus := by cases k <;> rfl

/-- An oscillator after a write of one: the oscillators share nothing (R150). -/
@[simp] theorem State.osc_setOsc (s : State) (k j : OscId) (o : Osc) :
    (s.setOsc k o).osc j = if j = k then o else s.osc j := by cases k <;> cases j <;> rfl


/-! ### setEma (R62) -/

@[simp] theorem State.setEma_arg0 (s : State) (k : EmaId) (e : Ema) : (s.setEma k e).arg0 = s.arg0 := by cases k <;> rfl

@[simp] theorem State.setEma_arg1 (s : State) (k : EmaId) (e : Ema) : (s.setEma k e).arg1 = s.arg1 := by cases k <;> rfl

@[simp] theorem State.setEma_res0 (s : State) (k : EmaId) (e : Ema) : (s.setEma k e).res0 = s.res0 := by cases k <;> rfl

@[simp] theorem State.setEma_res1 (s : State) (k : EmaId) (e : Ema) : (s.setEma k e).res1 = s.res1 := by cases k <;> rfl

@[simp] theorem State.setEma_pend (s : State) (k : EmaId) (e : Ema) : (s.setEma k e).pend = s.pend := by cases k <;> rfl

@[simp] theorem State.setEma_ctrl (s : State) (k : EmaId) (e : Ema) : (s.setEma k e).ctrl = s.ctrl := by cases k <;> rfl

@[simp] theorem State.setEma_act (s : State) (k : EmaId) (e : Ema) : (s.setEma k e).act = s.act := by cases k <;> rfl

@[simp] theorem State.setEma_fifo (s : State) (k : EmaId) (e : Ema) : (s.setEma k e).fifo = s.fifo := by cases k <;> rfl

@[simp] theorem State.setEma_evseq (s : State) (k : EmaId) (e : Ema) : (s.setEma k e).evseq = s.evseq := by cases k <;> rfl

@[simp] theorem State.setEma_evovf (s : State) (k : EmaId) (e : Ema) : (s.setEma k e).evovf = s.evovf := by cases k <;> rfl

@[simp] theorem State.setEma_ovr (s : State) (k : EmaId) (e : Ema) : (s.setEma k e).ovr = s.ovr := by cases k <;> rfl

@[simp] theorem State.setEma_fault (s : State) (k : EmaId) (e : Ema) : (s.setEma k e).fault = s.fault := by cases k <;> rfl

@[simp] theorem State.setEma_err (s : State) (k : EmaId) (e : Ema) : (s.setEma k e).err = s.err := by cases k <;> rfl

@[simp] theorem State.setEma_errInfo (s : State) (k : EmaId) (e : Ema) : (s.setEma k e).errInfo = s.errInfo := by cases k <;> rfl

@[simp] theorem State.setEma_bus (s : State) (k : EmaId) (e : Ema) : (s.setEma k e).bus = s.bus := by cases k <;> rfl

/-- An averager after a write of one. -/
@[simp] theorem State.ema_setEma (s : State) (k j : EmaId) (e : Ema) :
    (s.setEma k e).ema j = if j = k then e else s.ema j := by cases k <;> cases j <;> rfl


/-! ### popEvent (R379) -/

@[simp] theorem State.popEvent_arg0 (s : State) : (s.popEvent).arg0 = s.arg0 := rfl

@[simp] theorem State.popEvent_arg1 (s : State) : (s.popEvent).arg1 = s.arg1 := rfl

@[simp] theorem State.popEvent_res0 (s : State) : (s.popEvent).res0 = s.res0 := rfl

@[simp] theorem State.popEvent_res1 (s : State) : (s.popEvent).res1 = s.res1 := rfl

@[simp] theorem State.popEvent_pend (s : State) : (s.popEvent).pend = s.pend := rfl

@[simp] theorem State.popEvent_ctrl (s : State) : (s.popEvent).ctrl = s.ctrl := rfl

@[simp] theorem State.popEvent_act (s : State) : (s.popEvent).act = s.act := rfl

@[simp] theorem State.popEvent_dp (s : State) : (s.popEvent).dp = s.dp := rfl

@[simp] theorem State.popEvent_fifo (s : State) : (s.popEvent).fifo = s.fifo.tail := rfl

@[simp] theorem State.popEvent_evseq (s : State) : (s.popEvent).evseq = s.evseq := rfl

@[simp] theorem State.popEvent_evovf (s : State) : (s.popEvent).evovf = s.evovf := rfl

@[simp] theorem State.popEvent_ovr (s : State) : (s.popEvent).ovr = s.ovr := rfl

@[simp] theorem State.popEvent_fault (s : State) : (s.popEvent).fault = s.fault := rfl

@[simp] theorem State.popEvent_err (s : State) : (s.popEvent).err = s.err := rfl

@[simp] theorem State.popEvent_errInfo (s : State) : (s.popEvent).errInfo = s.errInfo := rfl

@[simp] theorem State.popEvent_bus (s : State) : (s.popEvent).bus = s.bus := rfl

/-! ### clearSticky (R376) -/

@[simp] theorem State.clearSticky_arg0 (s : State) : (s.clearSticky).arg0 = s.arg0 := rfl

@[simp] theorem State.clearSticky_arg1 (s : State) : (s.clearSticky).arg1 = s.arg1 := rfl

@[simp] theorem State.clearSticky_res0 (s : State) : (s.clearSticky).res0 = s.res0 := rfl

@[simp] theorem State.clearSticky_res1 (s : State) : (s.clearSticky).res1 = s.res1 := rfl

@[simp] theorem State.clearSticky_pend (s : State) : (s.clearSticky).pend = s.pend := rfl

@[simp] theorem State.clearSticky_ctrl (s : State) : (s.clearSticky).ctrl = s.ctrl := rfl

@[simp] theorem State.clearSticky_act (s : State) : (s.clearSticky).act = s.act := rfl

@[simp] theorem State.clearSticky_dp (s : State) : (s.clearSticky).dp = s.dp := rfl

@[simp] theorem State.clearSticky_fifo (s : State) : (s.clearSticky).fifo = s.fifo := rfl

@[simp] theorem State.clearSticky_evseq (s : State) : (s.clearSticky).evseq = s.evseq := rfl

@[simp] theorem State.clearSticky_evovf (s : State) : (s.clearSticky).evovf = false := rfl

@[simp] theorem State.clearSticky_ovr (s : State) : (s.clearSticky).ovr = false := rfl

@[simp] theorem State.clearSticky_fault (s : State) : (s.clearSticky).fault = s.fault := rfl

@[simp] theorem State.clearSticky_err (s : State) : (s.clearSticky).err = s.err := rfl

@[simp] theorem State.clearSticky_errInfo (s : State) : (s.clearSticky).errInfo = s.errInfo := rfl

@[simp] theorem State.clearSticky_bus (s : State) : (s.clearSticky).bus = s.bus := rfl

/-! ### writeStatus (R39) -/

@[simp] theorem State.writeStatus_arg0 (s : State) (v : Word) : (s.writeStatus v).arg0 = s.arg0 := rfl

@[simp] theorem State.writeStatus_arg1 (s : State) (v : Word) : (s.writeStatus v).arg1 = s.arg1 := rfl

@[simp] theorem State.writeStatus_res0 (s : State) (v : Word) : (s.writeStatus v).res0 = s.res0 := rfl

@[simp] theorem State.writeStatus_res1 (s : State) (v : Word) : (s.writeStatus v).res1 = s.res1 := rfl

@[simp] theorem State.writeStatus_pend (s : State) (v : Word) : (s.writeStatus v).pend = s.pend := rfl

@[simp] theorem State.writeStatus_ctrl (s : State) (v : Word) : (s.writeStatus v).ctrl = s.ctrl := rfl

@[simp] theorem State.writeStatus_act (s : State) (v : Word) : (s.writeStatus v).act = s.act := rfl

@[simp] theorem State.writeStatus_dp (s : State) (v : Word) : (s.writeStatus v).dp = s.dp := rfl

@[simp] theorem State.writeStatus_fifo (s : State) (v : Word) : (s.writeStatus v).fifo = s.fifo := rfl

@[simp] theorem State.writeStatus_evseq (s : State) (v : Word) : (s.writeStatus v).evseq = s.evseq := rfl

@[simp] theorem State.writeStatus_evovf (s : State) (v : Word) : (s.writeStatus v).evovf = (s.evovf && !v.getLsbD 7) := rfl

@[simp] theorem State.writeStatus_ovr (s : State) (v : Word) : (s.writeStatus v).ovr = (s.ovr && !v.getLsbD 8) := rfl

@[simp] theorem State.writeStatus_fault (s : State) (v : Word) : (s.writeStatus v).fault = s.fault := rfl

@[simp] theorem State.writeStatus_err (s : State) (v : Word) : (s.writeStatus v).err = s.err := rfl

@[simp] theorem State.writeStatus_errInfo (s : State) (v : Word) : (s.writeStatus v).errInfo = s.errInfo := rfl

@[simp] theorem State.writeStatus_bus (s : State) (v : Word) : (s.writeStatus v).bus = s.bus := rfl

/-! ### The host's side of the bus -/

@[simp] theorem State.takeAccess_arg0 (s : State) (rest : List Access) : (s.takeAccess rest).arg0 = s.arg0 := rfl

@[simp] theorem State.takeAccess_arg1 (s : State) (rest : List Access) : (s.takeAccess rest).arg1 = s.arg1 := rfl

@[simp] theorem State.takeAccess_res0 (s : State) (rest : List Access) : (s.takeAccess rest).res0 = s.res0 := rfl

@[simp] theorem State.takeAccess_res1 (s : State) (rest : List Access) : (s.takeAccess rest).res1 = s.res1 := rfl

@[simp] theorem State.takeAccess_pend (s : State) (rest : List Access) : (s.takeAccess rest).pend = s.pend := rfl

@[simp] theorem State.takeAccess_ctrl (s : State) (rest : List Access) : (s.takeAccess rest).ctrl = s.ctrl := rfl

@[simp] theorem State.takeAccess_act (s : State) (rest : List Access) : (s.takeAccess rest).act = s.act := rfl

@[simp] theorem State.takeAccess_dp (s : State) (rest : List Access) : (s.takeAccess rest).dp = s.dp := rfl

@[simp] theorem State.takeAccess_fifo (s : State) (rest : List Access) : (s.takeAccess rest).fifo = s.fifo := rfl

@[simp] theorem State.takeAccess_evseq (s : State) (rest : List Access) : (s.takeAccess rest).evseq = s.evseq := rfl

@[simp] theorem State.takeAccess_evovf (s : State) (rest : List Access) : (s.takeAccess rest).evovf = s.evovf := rfl

@[simp] theorem State.takeAccess_ovr (s : State) (rest : List Access) : (s.takeAccess rest).ovr = s.ovr := rfl

@[simp] theorem State.takeAccess_fault (s : State) (rest : List Access) : (s.takeAccess rest).fault = s.fault := rfl

@[simp] theorem State.takeAccess_err (s : State) (rest : List Access) : (s.takeAccess rest).err = s.err := rfl

@[simp] theorem State.takeAccess_errInfo (s : State) (rest : List Access) : (s.takeAccess rest).errInfo = s.errInfo := rfl

@[simp] theorem State.takeAccess_bus (s : State) (rest : List Access) : (s.takeAccess rest).bus = { pending := rest, resp := none } := rfl

/-! ### The value returned -/

@[simp] theorem State.respond_arg0 (s : State) (r : Option Word) : (s.respond r).arg0 = s.arg0 := rfl

@[simp] theorem State.respond_arg1 (s : State) (r : Option Word) : (s.respond r).arg1 = s.arg1 := rfl

@[simp] theorem State.respond_res0 (s : State) (r : Option Word) : (s.respond r).res0 = s.res0 := rfl

@[simp] theorem State.respond_res1 (s : State) (r : Option Word) : (s.respond r).res1 = s.res1 := rfl

@[simp] theorem State.respond_pend (s : State) (r : Option Word) : (s.respond r).pend = s.pend := rfl

@[simp] theorem State.respond_ctrl (s : State) (r : Option Word) : (s.respond r).ctrl = s.ctrl := rfl

@[simp] theorem State.respond_act (s : State) (r : Option Word) : (s.respond r).act = s.act := rfl

@[simp] theorem State.respond_dp (s : State) (r : Option Word) : (s.respond r).dp = s.dp := rfl

@[simp] theorem State.respond_fifo (s : State) (r : Option Word) : (s.respond r).fifo = s.fifo := rfl

@[simp] theorem State.respond_evseq (s : State) (r : Option Word) : (s.respond r).evseq = s.evseq := rfl

@[simp] theorem State.respond_evovf (s : State) (r : Option Word) : (s.respond r).evovf = s.evovf := rfl

@[simp] theorem State.respond_ovr (s : State) (r : Option Word) : (s.respond r).ovr = s.ovr := rfl

@[simp] theorem State.respond_fault (s : State) (r : Option Word) : (s.respond r).fault = s.fault := rfl

@[simp] theorem State.respond_err (s : State) (r : Option Word) : (s.respond r).err = s.err := rfl

@[simp] theorem State.respond_errInfo (s : State) (r : Option Word) : (s.respond r).errInfo = s.errInfo := rfl

@[simp] theorem State.respond_bus (s : State) (r : Option Word) : (s.respond r).bus = { s.bus with resp := r } := rfl

/-! ### push (R67) -/

@[simp] theorem State.push_arg0 (s : State) (e : Event) (cfg : Params) : (s.push e cfg).arg0 = s.arg0 := by unfold State.push; split <;> rfl

@[simp] theorem State.push_arg1 (s : State) (e : Event) (cfg : Params) : (s.push e cfg).arg1 = s.arg1 := by unfold State.push; split <;> rfl

@[simp] theorem State.push_res0 (s : State) (e : Event) (cfg : Params) : (s.push e cfg).res0 = s.res0 := by unfold State.push; split <;> rfl

@[simp] theorem State.push_res1 (s : State) (e : Event) (cfg : Params) : (s.push e cfg).res1 = s.res1 := by unfold State.push; split <;> rfl

@[simp] theorem State.push_pend (s : State) (e : Event) (cfg : Params) : (s.push e cfg).pend = s.pend := by unfold State.push; split <;> rfl

@[simp] theorem State.push_ctrl (s : State) (e : Event) (cfg : Params) : (s.push e cfg).ctrl = s.ctrl := by unfold State.push; split <;> rfl

@[simp] theorem State.push_act (s : State) (e : Event) (cfg : Params) : (s.push e cfg).act = s.act := by unfold State.push; split <;> rfl

@[simp] theorem State.push_dp (s : State) (e : Event) (cfg : Params) : (s.push e cfg).dp = s.dp := by unfold State.push; split <;> rfl

@[simp] theorem State.push_ovr (s : State) (e : Event) (cfg : Params) : (s.push e cfg).ovr = s.ovr := by unfold State.push; split <;> rfl

@[simp] theorem State.push_fault (s : State) (e : Event) (cfg : Params) : (s.push e cfg).fault = s.fault := by unfold State.push; split <;> rfl

@[simp] theorem State.push_err (s : State) (e : Event) (cfg : Params) : (s.push e cfg).err = s.err := by unfold State.push; split <;> rfl

@[simp] theorem State.push_errInfo (s : State) (e : Event) (cfg : Params) : (s.push e cfg).errInfo = s.errInfo := by unfold State.push; split <;> rfl

@[simp] theorem State.push_bus (s : State) (e : Event) (cfg : Params) : (s.push e cfg).bus = s.bus := by unfold State.push; split <;> rfl

/-! ### raiseFault (R401) -/

@[simp] theorem raiseFault_arg0 (s : State) (c : FaultCode) (info : Word) (cfg : Params) : (raiseFault c info s cfg).arg0 = s.arg0 := by unfold raiseFault; simp

@[simp] theorem raiseFault_arg1 (s : State) (c : FaultCode) (info : Word) (cfg : Params) : (raiseFault c info s cfg).arg1 = s.arg1 := by unfold raiseFault; simp

@[simp] theorem raiseFault_res0 (s : State) (c : FaultCode) (info : Word) (cfg : Params) : (raiseFault c info s cfg).res0 = s.res0 := by unfold raiseFault; simp

@[simp] theorem raiseFault_res1 (s : State) (c : FaultCode) (info : Word) (cfg : Params) : (raiseFault c info s cfg).res1 = s.res1 := by unfold raiseFault; simp

@[simp] theorem raiseFault_pend (s : State) (c : FaultCode) (info : Word) (cfg : Params) : (raiseFault c info s cfg).pend = s.pend := by unfold raiseFault; simp

@[simp] theorem raiseFault_ctrl (s : State) (c : FaultCode) (info : Word) (cfg : Params) : (raiseFault c info s cfg).ctrl = s.ctrl := by unfold raiseFault; simp

@[simp] theorem raiseFault_act (s : State) (c : FaultCode) (info : Word) (cfg : Params) : (raiseFault c info s cfg).act = s.act := by unfold raiseFault; simp

@[simp] theorem raiseFault_dp (s : State) (c : FaultCode) (info : Word) (cfg : Params) : (raiseFault c info s cfg).dp = s.dp := by unfold raiseFault; simp

@[simp] theorem raiseFault_ovr (s : State) (c : FaultCode) (info : Word) (cfg : Params) : (raiseFault c info s cfg).ovr = s.ovr := by unfold raiseFault; simp

@[simp] theorem raiseFault_fault (s : State) (c : FaultCode) (info : Word) (cfg : Params) : (raiseFault c info s cfg).fault = true := by unfold raiseFault; simp

@[simp] theorem raiseFault_err (s : State) (c : FaultCode) (info : Word) (cfg : Params) : (raiseFault c info s cfg).err = BitVec.ofNat 8 c.code := by unfold raiseFault; simp

@[simp] theorem raiseFault_errInfo (s : State) (c : FaultCode) (info : Word) (cfg : Params) : (raiseFault c info s cfg).errInfo = info := by unfold raiseFault; simp

@[simp] theorem raiseFault_bus (s : State) (c : FaultCode) (info : Word) (cfg : Params) : (raiseFault c info s cfg).bus = s.bus := by unfold raiseFault; simp

/-! ### resetAction (R450) -/

@[simp] theorem resetAction_arg0 (s : State) (cfg : Params) : (resetAction s cfg).arg0 = (State.resetAt cfg).arg0 := rfl

@[simp] theorem resetAction_arg1 (s : State) (cfg : Params) : (resetAction s cfg).arg1 = (State.resetAt cfg).arg1 := rfl

@[simp] theorem resetAction_res0 (s : State) (cfg : Params) : (resetAction s cfg).res0 = (State.resetAt cfg).res0 := rfl

@[simp] theorem resetAction_res1 (s : State) (cfg : Params) : (resetAction s cfg).res1 = (State.resetAt cfg).res1 := rfl

@[simp] theorem resetAction_pend (s : State) (cfg : Params) : (resetAction s cfg).pend = (State.resetAt cfg).pend := rfl

@[simp] theorem resetAction_ctrl (s : State) (cfg : Params) : (resetAction s cfg).ctrl = (State.resetAt cfg).ctrl := rfl

@[simp] theorem resetAction_act (s : State) (cfg : Params) : (resetAction s cfg).act = (State.resetAt cfg).act := rfl

@[simp] theorem resetAction_dp (s : State) (cfg : Params) : (resetAction s cfg).dp = (State.resetAt cfg).dp := rfl

@[simp] theorem resetAction_fifo (s : State) (cfg : Params) : (resetAction s cfg).fifo = (State.resetAt cfg).fifo := rfl

@[simp] theorem resetAction_evseq (s : State) (cfg : Params) : (resetAction s cfg).evseq = (State.resetAt cfg).evseq := rfl

@[simp] theorem resetAction_evovf (s : State) (cfg : Params) : (resetAction s cfg).evovf = (State.resetAt cfg).evovf := rfl

@[simp] theorem resetAction_ovr (s : State) (cfg : Params) : (resetAction s cfg).ovr = (State.resetAt cfg).ovr := rfl

@[simp] theorem resetAction_fault (s : State) (cfg : Params) : (resetAction s cfg).fault = (State.resetAt cfg).fault := rfl

@[simp] theorem resetAction_err (s : State) (cfg : Params) : (resetAction s cfg).err = (State.resetAt cfg).err := rfl

@[simp] theorem resetAction_errInfo (s : State) (cfg : Params) : (resetAction s cfg).errInfo = (State.resetAt cfg).errInfo := rfl

@[simp] theorem resetAction_bus (s : State) (cfg : Params) : (resetAction s cfg).bus = s.bus := rfl

/-! ### applied (R371, R372) -/

@[simp] theorem State.applied_arg0 (s : State) : (s.applied).arg0 = s.arg0 := rfl

@[simp] theorem State.applied_arg1 (s : State) : (s.applied).arg1 = s.arg1 := rfl

@[simp] theorem State.applied_res0 (s : State) : (s.applied).res0 = s.res0 := rfl

@[simp] theorem State.applied_res1 (s : State) : (s.applied).res1 = s.res1 := rfl

@[simp] theorem State.applied_pend (s : State) : (s.applied).pend = s.pend := rfl

@[simp] theorem State.applied_ctrl (s : State) : (s.applied).ctrl = s.ctrl := rfl

@[simp] theorem State.applied_act (s : State) : (s.applied).act = activeOf s.pend s.ctrl := rfl

@[simp] theorem State.applied_dp (s : State) : (s.applied).dp = rebuild (activeOf s.pend s.ctrl) := rfl

@[simp] theorem State.applied_fifo (s : State) : (s.applied).fifo = s.fifo := rfl

@[simp] theorem State.applied_evseq (s : State) : (s.applied).evseq = s.evseq := rfl

@[simp] theorem State.applied_evovf (s : State) : (s.applied).evovf = s.evovf := rfl

@[simp] theorem State.applied_ovr (s : State) : (s.applied).ovr = s.ovr := rfl

@[simp] theorem State.applied_fault (s : State) : (s.applied).fault = s.fault := rfl

@[simp] theorem State.applied_err (s : State) : (s.applied).err = s.err := rfl

@[simp] theorem State.applied_errInfo (s : State) : (s.applied).errInfo = s.errInfo := rfl

@[simp] theorem State.applied_bus (s : State) : (s.applied).bus = s.bus := rfl

/-! ### resetLoops (R325) -/

@[simp] theorem State.resetLoops_arg0 (s : State) : (s.resetLoops).arg0 = s.arg0 := rfl

@[simp] theorem State.resetLoops_arg1 (s : State) : (s.resetLoops).arg1 = s.arg1 := rfl

@[simp] theorem State.resetLoops_res0 (s : State) : (s.resetLoops).res0 = s.res0 := rfl

@[simp] theorem State.resetLoops_res1 (s : State) : (s.resetLoops).res1 = s.res1 := rfl

@[simp] theorem State.resetLoops_pend (s : State) : (s.resetLoops).pend = s.pend := rfl

@[simp] theorem State.resetLoops_ctrl (s : State) : (s.resetLoops).ctrl = s.ctrl := rfl

@[simp] theorem State.resetLoops_act (s : State) : (s.resetLoops).act = s.act := rfl

@[simp] theorem State.resetLoops_fifo (s : State) : (s.resetLoops).fifo = s.fifo := rfl

@[simp] theorem State.resetLoops_evseq (s : State) : (s.resetLoops).evseq = s.evseq := rfl

@[simp] theorem State.resetLoops_evovf (s : State) : (s.resetLoops).evovf = s.evovf := rfl

@[simp] theorem State.resetLoops_ovr (s : State) : (s.resetLoops).ovr = s.ovr := rfl

@[simp] theorem State.resetLoops_fault (s : State) : (s.resetLoops).fault = s.fault := rfl

@[simp] theorem State.resetLoops_err (s : State) : (s.resetLoops).err = s.err := rfl

@[simp] theorem State.resetLoops_errInfo (s : State) : (s.resetLoops).errInfo = s.errInfo := rfl

@[simp] theorem State.resetLoops_bus (s : State) : (s.resetLoops).bus = s.bus := rfl

/-! ### startGate (R325) -/

@[simp] theorem State.startGate_arg0 (s : State) : (s.startGate).arg0 = s.arg0 := rfl

@[simp] theorem State.startGate_arg1 (s : State) : (s.startGate).arg1 = s.arg1 := rfl

@[simp] theorem State.startGate_res0 (s : State) : (s.startGate).res0 = s.res0 := rfl

@[simp] theorem State.startGate_res1 (s : State) : (s.startGate).res1 = s.res1 := rfl

@[simp] theorem State.startGate_pend (s : State) : (s.startGate).pend = s.pend := rfl

@[simp] theorem State.startGate_ctrl (s : State) : (s.startGate).ctrl = s.ctrl := rfl

@[simp] theorem State.startGate_act (s : State) : (s.startGate).act = s.act := rfl

@[simp] theorem State.startGate_fifo (s : State) : (s.startGate).fifo = s.fifo := rfl

@[simp] theorem State.startGate_evseq (s : State) : (s.startGate).evseq = s.evseq := rfl

@[simp] theorem State.startGate_evovf (s : State) : (s.startGate).evovf = s.evovf := rfl

@[simp] theorem State.startGate_ovr (s : State) : (s.startGate).ovr = s.ovr := rfl

@[simp] theorem State.startGate_fault (s : State) : (s.startGate).fault = s.fault := rfl

@[simp] theorem State.startGate_err (s : State) : (s.startGate).err = s.err := rfl

@[simp] theorem State.startGate_errInfo (s : State) : (s.startGate).errInfo = s.errInfo := rfl

@[simp] theorem State.startGate_bus (s : State) : (s.startGate).bus = s.bus := rfl

/-! ### countSample (R48, R49) -/

@[simp] theorem State.countSample_arg0 (s : State) : (s.countSample).arg0 = s.arg0 := rfl

@[simp] theorem State.countSample_arg1 (s : State) : (s.countSample).arg1 = s.arg1 := rfl

@[simp] theorem State.countSample_res0 (s : State) : (s.countSample).res0 = s.res0 := rfl

@[simp] theorem State.countSample_res1 (s : State) : (s.countSample).res1 = s.res1 := rfl

@[simp] theorem State.countSample_pend (s : State) : (s.countSample).pend = s.pend := rfl

@[simp] theorem State.countSample_ctrl (s : State) : (s.countSample).ctrl = s.ctrl := rfl

@[simp] theorem State.countSample_act (s : State) : (s.countSample).act = s.act := rfl

@[simp] theorem State.countSample_fifo (s : State) : (s.countSample).fifo = s.fifo := rfl

@[simp] theorem State.countSample_evseq (s : State) : (s.countSample).evseq = s.evseq := rfl

@[simp] theorem State.countSample_evovf (s : State) : (s.countSample).evovf = s.evovf := rfl

@[simp] theorem State.countSample_ovr (s : State) : (s.countSample).ovr = s.ovr := rfl

@[simp] theorem State.countSample_fault (s : State) : (s.countSample).fault = s.fault := rfl

@[simp] theorem State.countSample_err (s : State) : (s.countSample).err = s.err := rfl

@[simp] theorem State.countSample_errInfo (s : State) : (s.countSample).errInfo = s.errInfo := rfl

@[simp] theorem State.countSample_bus (s : State) : (s.countSample).bus = s.bus := rfl

/-! ### countSymbol (R48, R49) -/

@[simp] theorem State.countSymbol_arg0 (s : State) : (s.countSymbol).arg0 = s.arg0 := rfl

@[simp] theorem State.countSymbol_arg1 (s : State) : (s.countSymbol).arg1 = s.arg1 := rfl

@[simp] theorem State.countSymbol_res0 (s : State) : (s.countSymbol).res0 = s.res0 := rfl

@[simp] theorem State.countSymbol_res1 (s : State) : (s.countSymbol).res1 = s.res1 := rfl

@[simp] theorem State.countSymbol_pend (s : State) : (s.countSymbol).pend = s.pend := rfl

@[simp] theorem State.countSymbol_ctrl (s : State) : (s.countSymbol).ctrl = s.ctrl := rfl

@[simp] theorem State.countSymbol_act (s : State) : (s.countSymbol).act = s.act := rfl

@[simp] theorem State.countSymbol_fifo (s : State) : (s.countSymbol).fifo = s.fifo := rfl

@[simp] theorem State.countSymbol_evseq (s : State) : (s.countSymbol).evseq = s.evseq := rfl

@[simp] theorem State.countSymbol_evovf (s : State) : (s.countSymbol).evovf = s.evovf := rfl

@[simp] theorem State.countSymbol_ovr (s : State) : (s.countSymbol).ovr = s.ovr := rfl

@[simp] theorem State.countSymbol_fault (s : State) : (s.countSymbol).fault = s.fault := rfl

@[simp] theorem State.countSymbol_err (s : State) : (s.countSymbol).err = s.err := rfl

@[simp] theorem State.countSymbol_errInfo (s : State) : (s.countSymbol).errInfo = s.errInfo := rfl

@[simp] theorem State.countSymbol_bus (s : State) : (s.countSymbol).bus = s.bus := rfl

/-! ### sbPush (R338) -/

@[simp] theorem State.sbPush_arg0 (s : State) (x : BitVec 16) : (s.sbPush x).arg0 = s.arg0 := by simp only [State.sbPush]; split <;> simp

@[simp] theorem State.sbPush_arg1 (s : State) (x : BitVec 16) : (s.sbPush x).arg1 = s.arg1 := by simp only [State.sbPush]; split <;> simp

@[simp] theorem State.sbPush_res0 (s : State) (x : BitVec 16) : (s.sbPush x).res0 = s.res0 := by simp only [State.sbPush]; split <;> simp

@[simp] theorem State.sbPush_res1 (s : State) (x : BitVec 16) : (s.sbPush x).res1 = s.res1 := by simp only [State.sbPush]; split <;> simp

@[simp] theorem State.sbPush_pend (s : State) (x : BitVec 16) : (s.sbPush x).pend = s.pend := by simp only [State.sbPush]; split <;> simp

@[simp] theorem State.sbPush_ctrl (s : State) (x : BitVec 16) : (s.sbPush x).ctrl = s.ctrl := by simp only [State.sbPush]; split <;> simp

@[simp] theorem State.sbPush_act (s : State) (x : BitVec 16) : (s.sbPush x).act = s.act := by simp only [State.sbPush]; split <;> simp

@[simp] theorem State.sbPush_ovr (s : State) (x : BitVec 16) : (s.sbPush x).ovr = s.ovr := by simp only [State.sbPush]; split <;> simp

@[simp] theorem State.sbPush_fault (s : State) (x : BitVec 16) : (s.sbPush x).fault = s.fault := by simp only [State.sbPush]; split <;> simp

@[simp] theorem State.sbPush_err (s : State) (x : BitVec 16) : (s.sbPush x).err = s.err := by simp only [State.sbPush]; split <;> simp

@[simp] theorem State.sbPush_errInfo (s : State) (x : BitVec 16) : (s.sbPush x).errInfo = s.errInfo := by simp only [State.sbPush]; split <;> simp

@[simp] theorem State.sbPush_bus (s : State) (x : BitVec 16) : (s.sbPush x).bus = s.bus := by simp only [State.sbPush]; split <;> simp

/-! ### lockOn (R325) -/

@[simp] theorem State.lockOn_arg0 (s : State) (b : Bool) : (s.lockOn b).arg0 = s.arg0 := by cases b <;> simp [State.lockOn]

@[simp] theorem State.lockOn_arg1 (s : State) (b : Bool) : (s.lockOn b).arg1 = s.arg1 := by cases b <;> simp [State.lockOn]

@[simp] theorem State.lockOn_res0 (s : State) (b : Bool) : (s.lockOn b).res0 = s.res0 := by cases b <;> simp [State.lockOn]

@[simp] theorem State.lockOn_res1 (s : State) (b : Bool) : (s.lockOn b).res1 = s.res1 := by cases b <;> simp [State.lockOn]

@[simp] theorem State.lockOn_pend (s : State) (b : Bool) : (s.lockOn b).pend = s.pend := by cases b <;> simp [State.lockOn]

@[simp] theorem State.lockOn_ctrl (s : State) (b : Bool) : (s.lockOn b).ctrl = s.ctrl := by cases b <;> simp [State.lockOn]

@[simp] theorem State.lockOn_act (s : State) (b : Bool) : (s.lockOn b).act = s.act := by cases b <;> simp [State.lockOn]

@[simp] theorem State.lockOn_ovr (s : State) (b : Bool) : (s.lockOn b).ovr = s.ovr := by cases b <;> simp [State.lockOn]

@[simp] theorem State.lockOn_fault (s : State) (b : Bool) : (s.lockOn b).fault = s.fault := by cases b <;> simp [State.lockOn]

@[simp] theorem State.lockOn_err (s : State) (b : Bool) : (s.lockOn b).err = s.err := by cases b <;> simp [State.lockOn]

@[simp] theorem State.lockOn_errInfo (s : State) (b : Bool) : (s.lockOn b).errInfo = s.errInfo := by cases b <;> simp [State.lockOn]

@[simp] theorem State.lockOn_bus (s : State) (b : Bool) : (s.lockOn b).bus = s.bus := by cases b <;> simp [State.lockOn]

/-! ### qualityReport (R331) -/

@[simp] theorem State.qualityReport_arg0 (s : State) : (s.qualityReport).arg0 = s.arg0 := by simp only [State.qualityReport]; split <;> simp

@[simp] theorem State.qualityReport_arg1 (s : State) : (s.qualityReport).arg1 = s.arg1 := by simp only [State.qualityReport]; split <;> simp

@[simp] theorem State.qualityReport_res0 (s : State) : (s.qualityReport).res0 = s.res0 := by simp only [State.qualityReport]; split <;> simp

@[simp] theorem State.qualityReport_res1 (s : State) : (s.qualityReport).res1 = s.res1 := by simp only [State.qualityReport]; split <;> simp

@[simp] theorem State.qualityReport_pend (s : State) : (s.qualityReport).pend = s.pend := by simp only [State.qualityReport]; split <;> simp

@[simp] theorem State.qualityReport_ctrl (s : State) : (s.qualityReport).ctrl = s.ctrl := by simp only [State.qualityReport]; split <;> simp

@[simp] theorem State.qualityReport_act (s : State) : (s.qualityReport).act = s.act := by simp only [State.qualityReport]; split <;> simp

@[simp] theorem State.qualityReport_ovr (s : State) : (s.qualityReport).ovr = s.ovr := by simp only [State.qualityReport]; split <;> simp

@[simp] theorem State.qualityReport_fault (s : State) : (s.qualityReport).fault = s.fault := by simp only [State.qualityReport]; split <;> simp

@[simp] theorem State.qualityReport_err (s : State) : (s.qualityReport).err = s.err := by simp only [State.qualityReport]; split <;> simp

@[simp] theorem State.qualityReport_errInfo (s : State) : (s.qualityReport).errInfo = s.errInfo := by simp only [State.qualityReport]; split <;> simp

@[simp] theorem State.qualityReport_bus (s : State) : (s.qualityReport).bus = s.bus := by simp only [State.qualityReport]; split <;> simp

end Sys2Proof.Machine
end

