-- ==== Sys2Proof/Machine/Configured.lean ====
section
/-! DEFINITION. The machine of any configuration (00_scope.md R11, R12): the same meanings with the configuration record
as their argument. Machine/Dispatch.lean, Step.lean and State.reset are its instance at the default parameters. -/

namespace Sys2Proof.Machine

/-- The dispatch of an instruction in a block with the configuration `cfg` (R11). -/
def execAt (cfg : Params) (i : Instr) (s : State) : StepOutcome :=
  match i with
  | .nop => execNop s cfg
  | .apply => execApply s cfg
  | .reset => execReset s cfg
  | .evFlush => execEvFlush s cfg
  | .ncoSetfreqMix => execNcoSetfreqMix s cfg
  | .ncoSetfreqTim => execNcoSetfreqTim s cfg
  | .ncoSetfreqCar => execNcoSetfreqCar s cfg
  | .ncoSetphaseMix => execNcoSetphaseMix s cfg
  | .ncoSetphaseTim => execNcoSetphaseTim s cfg
  | .ncoSetphaseCar => execNcoSetphaseCar s cfg
  | .ncoValueMix => execNcoValueMix s cfg
  | .ncoValueTim => execNcoValueTim s cfg
  | .ncoValueCar => execNcoValueCar s cfg
  | .ncoAdvanceMix => execNcoAdvanceMix s cfg
  | .ncoAdvanceTim => execNcoAdvanceTim s cfg
  | .ncoAdvanceCar => execNcoAdvanceCar s cfg
  | .ncoAdvfracMix => execNcoAdvfracMix s cfg
  | .ncoAdvfracTim => execNcoAdvfracTim s cfg
  | .ncoAdvfracCar => execNcoAdvfracCar s cfg
  | .ncoSetpointMix => execNcoSetpointMix s cfg
  | .ncoSetpointTim => execNcoSetpointTim s cfg
  | .ncoSetpointCar => execNcoSetpointCar s cfg
  | .ncoPassedMix => execNcoPassedMix s cfg
  | .ncoPassedTim => execNcoPassedTim s cfg
  | .ncoPassedCar => execNcoPassedCar s cfg
  | .dlPushDlTim => execDlPushDlTim s cfg
  | .dlPushDlSym => execDlPushDlSym s cfg
  | .mfPush => execMfPush s cfg
  | .emaPushBtS => execEmaPushBtS s cfg
  | .emaPushBtL => execEmaPushBtL s cfg
  | .emaPushQgMse => execEmaPushQgMse s cfg
  | .emaPushTed => execEmaPushTed s cfg
  | .resPush => execResPush s cfg
  | .agcPush => execAgcPush s cfg
  | .sbQuant => execSbQuant s cfg
  | .qgSlice => execQgSlice s cfg
  | .sample a b => execSample a b s cfg

/-- One host access of a block with the configuration `cfg` (R10, R11). -/
def stepAt (cfg : Params) (s : State) : StepOutcome := stepBy (execAt cfg) cfg s

/-- The block with the configuration `cfg` as a machine: its step, and its state after reset (R11, R450). -/
def coreAt (cfg : Params) : Host.Core where
  State := State
  Fault := Fault
  Refusal := Refusal
  step := stepAt cfg
  reset := State.resetAt cfg

end Sys2Proof.Machine
end

