-- ==== Sys2Proof/Laws/Ops.lean ====
section
/-! SUPPORT. For each shared operation one lemma that says everything it can do: the event push, taking a
fault, the frame of a command, the sample step, one host access (Machine/Ops.lean, Pipeline.lean,
Access.lean). Later proofs cite these and never unfold the operation. -/

namespace Sys2Proof.Machine

/-! ### Events and faults -/

/-- A push either drops the record and sets EVOVF, or appends it and counts it (R67). -/
theorem State.push_cases (s : State) (e : Event) (cfg : Params := params) :
    (s.fifo.length = cfg.evDepth ∧ s.push e cfg = { s with evovf := true }) ∨
      (s.fifo.length ≠ cfg.evDepth ∧
        s.push e cfg = { s with fifo := s.fifo ++ [e.record s.evseq], evseq := s.evseq + 1 }) := by
  unfold State.push
  split
  · exact .inl ⟨‹_›, rfl⟩
  · exact .inr ⟨‹_›, rfl⟩

/-- Taking a fault changes ERR, ERR_INFO and FAULT, and pushes one event (R401). -/
theorem raiseFault_eq (c : FaultCode) (info : Word) (s : State) (cfg : Params := params) :
    raiseFault c info s cfg =
      { s with fault := true, err := BitVec.ofNat 8 c.code, errInfo := info }.push (.fault c info) cfg := rfl

/-! ### The frame of a command -/

/-- The commit check keeps the new state or faults on the old one (R412). -/
theorem commit_cases (info : Word) (old new : State) (written : List F64) (cfg : Params := params) :
    (written.all F64.isFinite = true ∧ commit info old new written cfg = new) ∨
      (written.all F64.isFinite = false ∧ commit info old new written cfg = raiseFault .badArg info old cfg) := by
  unfold commit
  cases h : written.all F64.isFinite <;> simp

/-- Everything a command can do (R116, R118, R404, R412). -/
theorem runCommand_cases (w : Word) (args : List F64) (s : State) (body : Res (State × List F64)) (cfg : Params := params) :
    (s.fault = true ∧ runCommand w args s body cfg = s) ∨
      (s.fault = false ∧ args.all F64.isFinite = false ∧ runCommand w args s body cfg = raiseFault .badArg w s cfg) ∨
      (s.fault = false ∧ args.all F64.isFinite = true ∧
        ∃ c, body = .error c ∧ runCommand w args s body cfg = raiseFault c w s cfg) ∨
      (s.fault = false ∧ args.all F64.isFinite = true ∧
        ∃ t written, body = .ok (t, written) ∧ written.all F64.isFinite = false ∧
          runCommand w args s body cfg = raiseFault .badArg w s cfg) ∨
      (s.fault = false ∧ args.all F64.isFinite = true ∧
        ∃ t written, body = .ok (t, written) ∧ written.all F64.isFinite = true ∧ runCommand w args s body cfg = t) := by
  unfold runCommand
  cases hf : s.fault
  · cases ha : args.all F64.isFinite
    · exact .inr (.inl (by simp))
    · rcases body with c | ⟨t, wr⟩
      · exact .inr (.inr (.inl (by simp)))
      · rcases commit_cases w s t wr cfg with ⟨h, e⟩ | ⟨h, e⟩
        · exact .inr (.inr (.inr (.inr ⟨rfl, rfl, t, wr, rfl, h, by simpa using e⟩)))
        · exact .inr (.inr (.inr (.inl ⟨rfl, rfl, t, wr, rfl, h, by simpa using e⟩)))
  · exact .inl (by simp)

/-- A command whose arguments and results are finite completes (R116, R118, R412). -/
theorem runCommand_ok {w : Word} {args : List F64} {s t : State} {body : Res (State × List F64)} {written : List F64} {cfg : Params}
    (hf : s.fault = false) (ha : args.all F64.isFinite = true) (hb : body = .ok (t, written))
    (hw : written.all F64.isFinite = true) : runCommand w args s body cfg = t := by
  subst hb
  simp [runCommand, commit, hf, ha, hw]

/-- A command is refused without effect while FAULT = 1 (R404). -/
theorem runCommand_refused {w : Word} {args : List F64} {s : State} {body : Res (State × List F64)} {cfg : Params}
    (hf : s.fault = true) : runCommand w args s body cfg = s := by simp [runCommand, hf]

/-! ### The sample step -/

/-- Everything a SAMPLE can do (R350, R351, R354, R412). -/
theorem runSample_cases (i q : Int) (s : State) (cfg : Params := params) :
    (s.fault = true ∧ runSample i q s cfg = s) ∨
      (s.fault = false ∧ s.backPressure cfg = true ∧ runSample i q s cfg = { s with ovr := true }) ∨
      (s.fault = false ∧ s.backPressure cfg = false ∧
        ∃ c, s.sampleCore i q cfg = .error c ∧ runSample i q s cfg = raiseFault c (sampleWord i q) s cfg) ∨
      (s.fault = false ∧ s.backPressure cfg = false ∧
        ∃ t, s.sampleCore i q cfg = .ok t ∧ (sampleWrites s.act.modeCont s.dp t.dp).all F64.isFinite = false ∧
          runSample i q s cfg = raiseFault .badArg (sampleWord i q) s cfg) ∨
      (s.fault = false ∧ s.backPressure cfg = false ∧
        ∃ t, s.sampleCore i q cfg = .ok t ∧ (sampleWrites s.act.modeCont s.dp t.dp).all F64.isFinite = true ∧
          runSample i q s cfg = t) := by
  unfold runSample
  cases hf : s.fault
  · cases hb : s.backPressure cfg
    · cases hc : s.sampleCore i q cfg with
      | error c => exact .inr (.inr (.inl (by simp)))
      | ok t =>
        rcases commit_cases (sampleWord i q) s t (sampleWrites s.act.modeCont s.dp t.dp) cfg with ⟨h, e⟩ | ⟨h, e⟩
        · exact .inr (.inr (.inr (.inr ⟨rfl, rfl, t, rfl, h, by simpa using e⟩)))
        · exact .inr (.inr (.inr (.inl ⟨rfl, rfl, t, rfl, h, by simpa using e⟩)))
    · exact .inr (.inl (by simp))
  · exact .inl (by simp)

/-- A computation that goes through, taken apart: the first fault ends it (R405). -/
theorem bind_ok {α β : Type} {x : Res α} {f : α → Res β} {b : β} (h : x >>= f = .ok b) : ∃ a, x = .ok a ∧ f a = .ok b := by
  cases x with
  | error c => cases h
  | ok a => exact ⟨a, rfl, h⟩

/-- A sample step that goes through, stage by stage (R350). -/
theorem State.sampleCore_ok {s t : State} {i q : Int} {cfg : Params} (h : s.sampleCore i q cfg = .ok t) :
    ∃ s3 : State, ∃ tr : (Cplx × Cplx) × (Bool × State), ∃ s10 s11 : State,
      ((s.stageAgc (ingress i q) cfg).2.stageMix (s.stageAgc (ingress i q) cfg).1).2.acquire
          ((s.stageAgc (ingress i q) cfg).2.stageMix (s.stageAgc (ingress i q) cfg).1).1 cfg = .ok s3 ∧
      s3.trackSample ((s.stageAgc (ingress i q) cfg).2.stageMix (s.stageAgc (ingress i q) cfg).1).1 cfg = .ok tr ∧
      (if tr.2.1 then tr.2.2.stageSymbol tr.1.1 tr.1.2 cfg else .ok tr.2.2) = .ok s10 ∧
      s10.gateStep cfg = .ok s11 ∧ t = s11.stageCount cfg := by
  unfold State.sampleCore at h
  obtain ⟨s3, h3, h⟩ := bind_ok h
  obtain ⟨tr, htr, h⟩ := bind_ok h
  have h' : ((if tr.2.1 then tr.2.2.stageSymbol tr.1.1 tr.1.2 cfg else .ok tr.2.2) >>= fun s10 =>
      s10.gateStep cfg >>= fun s11 => pure (s11.stageCount cfg)) = Except.ok t := by
    rw [← h]; split <;> rfl
  obtain ⟨s10, h10, h⟩ := bind_ok h'
  obtain ⟨s11, h11, h⟩ := bind_ok h
  exact ⟨s3, tr, s10, s11, h3, htr, h10, h11, (Except.ok.inj h).symm⟩

/-! ### One host access -/

/-- The step at a pending access inside the window is that access (R10, R80). -/
theorem step_access {s : State} {a : Access} {rest : List Access} (hp : s.bus.pending = a :: rest)
    (ho : a.off < 0x1000) : step s = takeAccess a (s.takeAccess rest) := by
  simp [step, stepBy, hp, ho]

/-- The step with nothing pending changes nothing (log 3). -/
theorem step_idle {s : State} (hp : s.bus.pending = []) : step s = .next s := by simp [step, stepBy, hp]

/-- The step at an access outside the window stops (log 4). -/
theorem step_outside {s : State} {a : Access} {rest : List Access} (hp : s.bus.pending = a :: rest)
    (ho : 0x1000 ≤ a.off) : step s = .fault .outsideWindow := by
  simp [step, stepBy, hp, Nat.not_lt.mpr ho]

/-- Everything an access can do (R83, R85, R377, R404, R405). -/
theorem takeAccess_cases (a : Access) (s : State) :
    (s.fault = true ∧ a.acceptedWhileFaulted = false ∧ takeAccess a s = .next (s.respond a.nullResp)) ∨
      (s.fault = false ∧ a.aligned32 = false ∧
        takeAccess a s = .next ((raiseFault .bus (BitVec.ofNat 32 a.off) s).respond a.nullResp)) ∨
      (a.aligned32 = true ∧ a.kind = .read ∧ takeAccess a s = .next (s.respond (some (readWord s a.off)))) ∨
      (a.aligned32 = true ∧ (s.fault = true → a.acceptedWhileFaulted = true) ∧
        ∃ v, a.kind = .write v ∧ takeAccess a s = writeWord a.off v s) := by
  have hacc : a.acceptedWhileFaulted = true → a.aligned32 = true := by
    unfold Access.acceptedWhileFaulted; simp only [Bool.and_eq_true]; exact fun h => h.1
  unfold takeAccess
  cases hf : s.fault <;> cases hw : a.acceptedWhileFaulted <;> cases ha : a.aligned32 <;> cases hk : a.kind <;>
    simp_all

/-- Everything an aligned write can do (R377). -/
theorem writeWord_cases (off : Nat) (v : Word) (s : State) :
    (regAt off = some .cmd ∧ writeWord off v s = runWord .cmd v s) ∨
      (regAt off = some .sampleIn ∧ writeWord off v s = runWord .sampleIn v s) ∨
      (∃ r, regAt off = some r ∧ r ≠ .cmd ∧ r ≠ .sampleIn ∧ writeWord off v s = .next (writeReg s r v)) ∨
      (regAt off = none ∧ writeWord off v s = .next s) := by
  unfold writeWord
  split
  · exact .inl ⟨by assumption, rfl⟩
  · exact .inr (.inl ⟨by assumption, rfl⟩)
  · rename_i r h1 h2 h3
    exact .inr (.inr (.inl ⟨r, h3, h1, h2, rfl⟩))
  · exact .inr (.inr (.inr ⟨by assumption, rfl⟩))

/-! ### Configurations -/

/-- At the default parameters the dispatch of a configured block is `exec` (R11). -/
theorem execAt_params (i : Instr) (s : State) : execAt params i s = exec i s := by cases i <;> rfl

/-- This hardware is the configured block at the default parameters (R11). -/
theorem stepAt_params : stepAt params = step := by
  have h : execAt params = exec := funext fun i => funext fun s => execAt_params i s
  funext s
  rw [stepAt, h, step]

/-- BLOCK_BASE is a multiple of 4096, whatever the platform (R80). -/
theorem params_placed : params.placed := by
  show 0x1000 * Config.blockPage % 0x1000 = 0
  omega

/-- An address in the window is BLOCK_BASE plus its offset (R80). -/
theorem windowOffset_eq_some {cfg : Params} {addr off : Nat} :
    windowOffset addr cfg = some off ↔ addr = cfg.blockBase + off ∧ off < 0x1000 := by
  unfold windowOffset
  split <;> simp <;> omega

/-! ### The oscillator -/

/-- Crossing the point changes the pass flags alone (R151). -/
theorem Osc.passPoint_frame (o : Osc) (b : Bool) :
    (o.passPoint b).phase = o.phase ∧ (o.passPoint b).ftw = o.ftw ∧ (o.passPoint b).point = o.point := by
  unfold Osc.passPoint Osc.crossPoint
  cases b
  · exact ⟨rfl, rfl, rfl⟩
  · simp only [if_true]; split <;> exact ⟨rfl, rfl, rfl⟩

/-- Crossing the antipode changes the pass flags alone (R151). -/
theorem Osc.passAntipode_frame (o : Osc) (b : Bool) :
    (o.passAntipode b).phase = o.phase ∧ (o.passAntipode b).ftw = o.ftw ∧ (o.passAntipode b).point = o.point := by
  unfold Osc.passAntipode
  cases b <;> exact ⟨rfl, rfl, rfl⟩

/-- Crossings change the pass flags alone (R169). -/
theorem Osc.crossings_frame (o : Osc) (l : Word) :
    (o.crossings l).phase = o.phase ∧ (o.crossings l).ftw = o.ftw ∧ (o.crossings l).point = o.point := by
  unfold Osc.crossings
  generalize arcHits o.distPoint l = bp
  generalize arcHits o.distAntipode l = ba
  obtain ⟨h1, h2, h3⟩ := o.passPoint_frame bp
  obtain ⟨k1, k2, k3⟩ := (o.passPoint bp).passAntipode_frame ba
  obtain ⟨h4, h5, h6⟩ := o.passAntipode_frame ba
  obtain ⟨k4, k5, k6⟩ := (o.passAntipode ba).passPoint_frame bp
  split
  · exact ⟨k1.trans h1, k2.trans h2, k3.trans h3⟩
  · exact ⟨k4.trans h4, k5.trans h5, k6.trans h6⟩

@[simp] theorem Osc.crossings_phase (o : Osc) (l : Word) : (o.crossings l).phase = o.phase := (o.crossings_frame l).1
@[simp] theorem Osc.crossings_ftw (o : Osc) (l : Word) : (o.crossings l).ftw = o.ftw := (o.crossings_frame l).2.1
@[simp] theorem Osc.crossings_point (o : Osc) (l : Word) : (o.crossings l).point = o.point := (o.crossings_frame l).2.2

/-- A forward move adds to the phase (R151). -/
@[simp] theorem Osc.fwd_phase (o : Osc) (l : Word) : (o.fwd l).phase = o.phase + l := by
  unfold Osc.fwd; split
  · subst l; simp
  · rfl

@[simp] theorem Osc.fwd_ftw (o : Osc) (l : Word) : (o.fwd l).ftw = o.ftw := by
  unfold Osc.fwd; split
  · rfl
  · dsimp only; exact o.crossings_ftw l

@[simp] theorem Osc.fwd_point (o : Osc) (l : Word) : (o.fwd l).point = o.point := by
  unfold Osc.fwd; split
  · rfl
  · dsimp only; exact o.crossings_point l

/-- A nudge adds to the phase, forward or backward (R155). -/
@[simp] theorem Osc.nudge_phase (o : Osc) (d : Word) : (o.nudge d).phase = o.phase + d := by
  unfold Osc.nudge; split
  · exact o.fwd_phase d
  · rfl

@[simp] theorem Osc.nudge_ftw (o : Osc) (d : Word) : (o.nudge d).ftw = o.ftw := by
  unfold Osc.nudge; split
  · exact o.fwd_ftw d
  · rfl

@[simp] theorem Osc.nudge_point (o : Osc) (d : Word) : (o.nudge d).point = o.point := by
  unfold Osc.nudge; split
  · exact o.fwd_point d
  · rfl

@[simp] theorem Osc.consumeLatch_phase (o : Osc) : o.consumeLatch.phase = o.phase := rfl
@[simp] theorem Osc.consumeLatch_ftw (o : Osc) : o.consumeLatch.ftw = o.ftw := rfl
@[simp] theorem Osc.consumeLatch_point (o : Osc) : o.consumeLatch.point = o.point := rfl
@[simp] theorem Osc.consumeLatch_armed (o : Osc) : o.consumeLatch.armed = o.armed := rfl
@[simp] theorem Osc.consumeLatch_latch (o : Osc) : o.consumeLatch.latch = false := rfl

/-- `phaseword` answers a word or BAD_ARG (R23). -/
theorem phaseword_cases (x : F64) :
    (phaseFaults x = true ∧ phaseword x = .error .badArg) ∨ (phaseFaults x = false ∧ phaseword x = .ok (phaseBits x)) := by
  unfold phaseword
  cases h : phaseFaults x <;> simp

/-- `setFrequency` answers BAD_ARG or changes the tuning word alone (R157). -/
theorem Osc.setFrequency_cases (o : Osc) (hz fs : F64) :
    o.setFrequency hz fs = .error .badArg ∨
      (hz.isFinite = true ∧ fs.isFinite = true ∧ F64.le fs F64.zero = false ∧ phaseFaults (hz.div fs) = false ∧
        o.setFrequency hz fs = .ok { o with ftw := phaseBits (hz.div fs) }) := by
  unfold Osc.setFrequency
  rcases phaseword_cases (hz.div fs) with ⟨h, e⟩ | ⟨h, e⟩ <;>
    cases h1 : hz.isFinite <;> cases h2 : fs.isFinite <;> cases h3 : F64.le fs F64.zero <;> simp [e, h, Except.map]

/-! ### Buffers -/

@[simp] theorem DelayLine.push_length {α : Type} (d : DelayLine α) (x : α) : (d.push x).buf.length = d.buf.length := by
  simp [DelayLine.push]

/-- The pointer stays inside a line that has a cell (R190). -/
theorem DelayLine.push_ptr_lt {α : Type} (d : DelayLine α) (x : α) (h : 0 < d.buf.length) :
    (d.push x).ptr < d.buf.length := Nat.mod_lt _ h

theorem shiftIn_length (n : Nat) (h : List F64) (x : F64) (hl : h.length = n) :
    (shiftIn n h x).length = n := by
  simp [shiftIn, hl]

/-- Every count that APPLY rounds and holds up at 1 is at least 1 (R372). -/
theorem lengthOf_pos (x : F64) : 1 ≤ lengthOf x := by unfold lengthOf; omega

/-- The soft-bit buffer is left below its batch size (R338). -/
theorem State.sbPush_sb (s : State) (x : BitVec 16) (cfg : Params := params) :
    (s.sbPush x cfg).dp.gate.sb = if (s.dp.gate.sb ++ [x]).length = cfg.sbBatch then [] else s.dp.gate.sb ++ [x] := by
  simp only [State.sbPush]
  split <;> simp

end Sys2Proof.Machine
end

