-- ==== Sys2Proof/Laws/PerInstr.lean ====
section
/-! SUPPORT. The per-instruction family of LAWS.json: every command is encoded with Z = 0 (30_encoding.md R110,
R114); a sample word has no reserved bits. -/

namespace Sys2Proof.Laws.EncodedZClear

/-- The word of a command has Z, bits [19:0], equal to zero (R114). -/
def Statement (i : Instr) : Prop := encodePort i = .cmd → fieldZ (encodeWord i) = 0

theorem nop : Statement .nop := fun _ => by decide

theorem apply : Statement .apply := fun _ => by decide

theorem reset : Statement .reset := fun _ => by decide

theorem evFlush : Statement .evFlush := fun _ => by decide

theorem ncoSetfreqMix : Statement .ncoSetfreqMix := fun _ => by decide

theorem ncoSetfreqTim : Statement .ncoSetfreqTim := fun _ => by decide

theorem ncoSetfreqCar : Statement .ncoSetfreqCar := fun _ => by decide

theorem ncoSetphaseMix : Statement .ncoSetphaseMix := fun _ => by decide

theorem ncoSetphaseTim : Statement .ncoSetphaseTim := fun _ => by decide

theorem ncoSetphaseCar : Statement .ncoSetphaseCar := fun _ => by decide

theorem ncoValueMix : Statement .ncoValueMix := fun _ => by decide

theorem ncoValueTim : Statement .ncoValueTim := fun _ => by decide

theorem ncoValueCar : Statement .ncoValueCar := fun _ => by decide

theorem ncoAdvanceMix : Statement .ncoAdvanceMix := fun _ => by decide

theorem ncoAdvanceTim : Statement .ncoAdvanceTim := fun _ => by decide

theorem ncoAdvanceCar : Statement .ncoAdvanceCar := fun _ => by decide

theorem ncoAdvfracMix : Statement .ncoAdvfracMix := fun _ => by decide

theorem ncoAdvfracTim : Statement .ncoAdvfracTim := fun _ => by decide

theorem ncoAdvfracCar : Statement .ncoAdvfracCar := fun _ => by decide

theorem ncoSetpointMix : Statement .ncoSetpointMix := fun _ => by decide

theorem ncoSetpointTim : Statement .ncoSetpointTim := fun _ => by decide

theorem ncoSetpointCar : Statement .ncoSetpointCar := fun _ => by decide

theorem ncoPassedMix : Statement .ncoPassedMix := fun _ => by decide

theorem ncoPassedTim : Statement .ncoPassedTim := fun _ => by decide

theorem ncoPassedCar : Statement .ncoPassedCar := fun _ => by decide

theorem dlPushDlTim : Statement .dlPushDlTim := fun _ => by decide

theorem dlPushDlSym : Statement .dlPushDlSym := fun _ => by decide

theorem mfPush : Statement .mfPush := fun _ => by decide

theorem emaPushBtS : Statement .emaPushBtS := fun _ => by decide

theorem emaPushBtL : Statement .emaPushBtL := fun _ => by decide

theorem emaPushQgMse : Statement .emaPushQgMse := fun _ => by decide

theorem emaPushTed : Statement .emaPushTed := fun _ => by decide

theorem resPush : Statement .resPush := fun _ => by decide

theorem agcPush : Statement .agcPush := fun _ => by decide

theorem sbQuant : Statement .sbQuant := fun _ => by decide

theorem qgSlice : Statement .qgSlice := fun _ => by decide

theorem sample (i q : Int) : Statement (.sample i q) := fun h => nomatch h

end Sys2Proof.Laws.EncodedZClear
end

