-- ==== Sys2Proof/Tests/Slice0.lean ====
section
/-! SUPPORT. The package's own tests. Expected values come from spec/: the encodings of 30_encoding.md and the vectors of
95_test_vectors.md (named in each comment), or hand calculation from the rule named. The last part shows, for each
statement with hypotheses, a state and operands that meet them. -/

namespace Sys2Proof.Tests

-- One theorem at a time: elaborated side by side, they ask for more threads than the memory limit allows.
set_option Elab.async false

open Sys2Proof.Machine

/-! ### Well-formedness: each check refuses an ill-formed term (R112, R120) -/

theorem test_wf_limits : (Instr.sample (-32768) 32767).WellFormed ∧ (Instr.sample 32767 (-32768)).WellFormed := by decide
theorem test_wf_i_too_large : ¬(Instr.sample 32768 0).WellFormed := by decide
theorem test_wf_i_too_small : ¬(Instr.sample (-32769) 0).WellFormed := by decide
theorem test_wf_q_too_large : ¬(Instr.sample 0 32768).WellFormed := by decide
theorem test_wf_q_too_small : ¬(Instr.sample 0 (-32769)).WellFormed := by decide
theorem test_params_admissible : params.admissible = true := by decide +kernel

/-! ### Decoding: every constructor from its word as the encoding tables write it (R110, R113, R120, R121) -/

theorem test_decode_control :
    decode .cmd 0x00000000#32 = .ok .nop ∧
      decode .cmd 0x01000000#32 = .ok .apply ∧
      decode .cmd 0x02000000#32 = .ok .reset ∧
      decode .cmd 0x03000000#32 = .ok .evFlush := by
  decide

theorem test_decode_nco_setfreq_setphase :
    decode .cmd 0x10000000#32 = .ok .ncoSetfreqMix ∧
      decode .cmd 0x10100000#32 = .ok .ncoSetfreqTim ∧
      decode .cmd 0x10200000#32 = .ok .ncoSetfreqCar ∧
      decode .cmd 0x11000000#32 = .ok .ncoSetphaseMix ∧
      decode .cmd 0x11100000#32 = .ok .ncoSetphaseTim ∧
      decode .cmd 0x11200000#32 = .ok .ncoSetphaseCar := by
  decide

theorem test_decode_nco_value_advance :
    decode .cmd 0x12000000#32 = .ok .ncoValueMix ∧
      decode .cmd 0x12100000#32 = .ok .ncoValueTim ∧
      decode .cmd 0x12200000#32 = .ok .ncoValueCar ∧
      decode .cmd 0x13000000#32 = .ok .ncoAdvanceMix ∧
      decode .cmd 0x13100000#32 = .ok .ncoAdvanceTim ∧
      decode .cmd 0x13200000#32 = .ok .ncoAdvanceCar := by
  decide

theorem test_decode_nco_advfrac_setpoint_passed :
    decode .cmd 0x14000000#32 = .ok .ncoAdvfracMix ∧
      decode .cmd 0x14100000#32 = .ok .ncoAdvfracTim ∧
      decode .cmd 0x14200000#32 = .ok .ncoAdvfracCar ∧
      decode .cmd 0x15000000#32 = .ok .ncoSetpointMix ∧
      decode .cmd 0x15100000#32 = .ok .ncoSetpointTim ∧
      decode .cmd 0x15200000#32 = .ok .ncoSetpointCar ∧
      decode .cmd 0x16000000#32 = .ok .ncoPassedMix ∧
      decode .cmd 0x16100000#32 = .ok .ncoPassedTim ∧
      decode .cmd 0x16200000#32 = .ok .ncoPassedCar := by
  decide

theorem test_decode_units :
    decode .cmd 0x20000000#32 = .ok .dlPushDlTim ∧
      decode .cmd 0x20100000#32 = .ok .dlPushDlSym ∧
      decode .cmd 0x21000000#32 = .ok .mfPush ∧
      decode .cmd 0x22000000#32 = .ok .emaPushBtS ∧
      decode .cmd 0x22100000#32 = .ok .emaPushBtL ∧
      decode .cmd 0x22200000#32 = .ok .emaPushQgMse ∧
      decode .cmd 0x22300000#32 = .ok .emaPushTed ∧
      decode .cmd 0x23000000#32 = .ok .resPush ∧
      decode .cmd 0x24000000#32 = .ok .agcPush ∧
      decode .cmd 0x25000000#32 = .ok .sbQuant ∧
      decode .cmd 0x26000000#32 = .ok .qgSlice := by
  decide

/-- SAMPLE 1000, −1000 and SAMPLE −32768, −32768 (95_test_vectors.md 2.13). -/
theorem test_decode_sample :
    decode .sampleIn 0xFC1803E8#32 = .ok (.sample 1000 (-1000)) ∧
      decode .sampleIn 0x80008000#32 = .ok (.sample (-32768) (-32768)) := by decide

/-- OP in bits [31:24], UNIT in [23:20]: the fields written out bit by bit (R110). -/
theorem test_decode_bits :
    decode .cmd 0b00010110000100000000000000000000#32 = .ok .ncoPassedTim ∧
      decode .cmd 0b00100010001100000000000000000000#32 = .ok .emaPushTed ∧
      decode .sampleIn 0b10000000000000000000000000000001#32 = .ok (.sample 1 (-32768)) := by decide

/-- The illegal words of 95_test_vectors.md 2.13. -/
theorem test_decode_illegal :
    decodeCmd 0x10300000#32 = .error .illegalUnit ∧ decodeCmd 0x10000001#32 = .error .reservedBits ∧
      decodeCmd 0x04000000#32 = .error .unknownOpcode ∧ decodeCmd 0x17000000#32 = .error .unknownOpcode ∧
      decodeCmd 0x27000000#32 = .error .unknownOpcode ∧ decodeCmd 0x00100000#32 = .error .illegalUnit ∧
      decodeCmd 0x16300000#32 = .error .illegalUnit ∧ decodeCmd 0x20200000#32 = .error .illegalUnit ∧
      decodeCmd 0x22400000#32 = .error .illegalUnit := by decide

theorem test_encode_sample : encode (.sample 1000 (-1000)) = (.sampleIn, 0xFC1803E8#32) := by decide

/-- The host's reading of a row: a command row has 32 bits, the SAMPLE row none (log 17). -/
theorem test_decodeTableWord :
    decodeTableWord 32 0x22300000 = some .emaPushTed ∧ decodeTableWord 0 0 = some (.sample 0 0) := by decide

/-! ### A small state -/

/-- A datapath small enough to compute by hand: NMF = 2, DSYM = 1, taps 0.5 and 0.25, every phase word at a quarter. -/
def benchDp : Datapath where
  sps := F64.one
  nmf := 2
  dsym := 1
  mf := { taps := [F64.half, ⟨0x3FD0000000000000⟩], hr := [F64.zero, F64.zero], hi := [F64.zero, F64.zero] }
  dlSym := { buf := [⟨F64.two, F64.four⟩], ptr := 0 }
  dlTim := { buf := [F64.zero, F64.one], ptr := 1 }
  agc := { m := F64.one, alpha := ⟨0x3F739A0744CACC00⟩ }
  res := { a1 := F64.one, a2 := F64.half, g := F64.half, s1 := F64.two, s2 := F64.four }
  btS := { alpha := F64.half, y := F64.zero }
  btL := { alpha := ⟨0x3FD0000000000000⟩, y := F64.zero }
  ted := { alpha := F64.half, y := F64.zero }
  qgMse := { alpha := params.qgAlpha, y := F64.one }
  mix := { phase := 0, ftw := 0x40000000, point := 0x40000000, armed := true, latch := false }
  tim := { phase := 0, ftw := 0x40000000, point := 0x80000000, armed := true, latch := false }
  car := { phase := 0, ftw := 0, point := 0, armed := true, latch := false }
  timRamp := 64
  carFstart := 32
  acq := { bt1 := F64.zero, bt2 := F64.zero, armed := true, buf := [Cplx.zero, Cplx.zero], ptr := 0, st := .rejected,
           lb := 1, lt := 1, nacq := 4, dead := 0 }
  cont := { frame := List.replicate 16 Cplx.zero, ptr := 0, mags := List.replicate 16 F64.zero, settle := 4, nc := 16 }
  freqEst := F64.zero
  gate := { st := .noSig, cd := 0, acqEl := 0, sinceLock := 0, symSince := 0, zpp := Cplx.zero, sb := [],
            carrier := ⟨0x409C200000000000⟩, qgCd := 3, qgDelay := 2, report := 100 }
  sampleCnt := 5
  symbolCnt := 0
  ebno := F64.zero

/-- The small state: the reset state around the small datapath, with FFTP = 4. -/
def bench : State :=
  { State.reset with
    dp := benchDp
    act := { fs := ⟨0x40E7700000000000⟩, fb := ⟨0x40E7700000000000⟩, fc := ⟨0x409C200000000000⟩, lbw := ⟨0x408C200000000000⟩,
             thr := F64.half, fftp := 4, ctrl := 0 } }

/-- The next state, if the outcome is one. -/
def next? (o : StepOutcome) : Option State :=
  match o with
  | .next s => some s
  | _ => none

/-- One field of the state an instruction leaves. -/
def after {α : Type} (i : Instr) (s : State) (f : State → α) : Option α := (next? (exec i s)).map f

/-- One field of the state one host access leaves. -/
def stepped {α : Type} (a : Access) (s : State) (f : State → α) : Option α :=
  (next? (step { s with bus.pending := [a] })).map f

/-- The reset state with operands. -/
def withArgs (a0 a1 : F64) : State := { State.reset with arg0 := a0, arg1 := a1 }

/-- The small state with operands. -/
def benchArgs (a0 a1 : F64) : State := { bench with arg0 := a0, arg1 := a1 }

/-! ### Instructions, against the vectors of 95_test_vectors.md -/

/-- C1 -/
theorem test_nop :
    after .nop bench id = some bench := by decide +kernel

/-- C3: FB = 100000 -/
theorem test_apply_clamps :
    after .apply { State.reset with pend.fb := ⟨0x40F86A0000000000⟩ } (fun s => ((s.act.fb, s.act.fc, s.dp.sps), (s.dp.nmf, s.dp.dsym, s.dp.mix.ftw, s.dp.tim.ftw))) =
      some ((⟨0x40E7700000000000⟩, ⟨0x40C7700000000000⟩, ⟨0x3FF0000000000000⟩), (2, 1, 0x40000000, 0x80000000)) := by decide +kernel

/-- C8: FS = −0.0 -/
theorem test_apply_bad_settings :
    after .apply { State.reset with pend.fs := ⟨0x8000000000000000⟩ } (fun s => (s.err, s.errInfo, s.act.fs)) =
      some (3, 0x01000000, ⟨0x40E7700000000000⟩) := by decide +kernel

/-- C11, X7 -/
theorem test_reset :
    after .reset { bench with fault := true, err := 3, ctrl := 8 } (fun s => (s.dp.sampleCnt, s.dp.agc.m, s.err, s.fault, s.ctrl)) =
      some (0, F64.one, 0, false, 0) := by decide +kernel

/-- C12 -/
theorem test_evFlush :
    after .evFlush { bench with fifo := [⟨1, 2, 3, 4, 5, 6, 7, 8⟩], evovf := true, ovr := true, evseq := 9 } (fun s => (s.fifo, s.evovf, s.ovr, s.evseq)) =
      some ([], false, false, 9) := by decide +kernel

/-- N1, N3 -/
theorem test_ncoSetfreqMix :
    after .ncoSetfreqMix (withArgs ⟨0x409C200000000000⟩ ⟨0x40E7700000000000⟩) (fun s => s.dp.mix.ftw) = some 0x0999999A ∧
      after .ncoSetfreqMix (withArgs ⟨0xC09C200000000000⟩ ⟨0x40E7700000000000⟩) (fun s => s.dp.mix.ftw) = some 0xF6666666 := by decide +kernel

/-- N6 -/
theorem test_ncoSetphaseMix :
    after .ncoSetphaseMix (withArgs ⟨0xC056800000000000⟩ F64.zero) (fun s => (s.dp.mix.phase, s.dp.mix.armed)) = some (0xC0000000, true) ∧
      after .ncoSetphaseMix (withArgs ⟨0x3FF0000000000000⟩ F64.zero) (fun s => s.dp.mix.phase) = some 0x00B60B61 := by decide +kernel

/-- N7 -/
theorem test_ncoValueMix :
    after .ncoValueMix { bench with dp.mix.phase := 0x40000000 } (fun s => (s.res0, s.res1)) = some (F64.zero, F64.one) := by decide +kernel

/-- N14: landing on the point; N17: the point while disarmed, then the antipode -/
theorem test_ncoAdvanceMix :
    after .ncoAdvanceMix { bench with dp.mix := ⟨0, 0x40000000, 0x40000000, true, false⟩ } (fun s => s.dp.mix) =
      some ⟨0x40000000, 0x40000000, 0x40000000, false, true⟩ ∧
      after .ncoAdvanceMix { bench with dp.mix := ⟨0, 0xC0000000, 0x10000000, false, false⟩ } (fun s => s.dp.mix) =
      some ⟨0xC0000000, 0xC0000000, 0x10000000, true, false⟩ := by decide +kernel

/-- N10, N11 -/
theorem test_ncoAdvfracMix :
    after .ncoAdvfracMix { benchArgs ⟨0x3FD3333333333333⟩ F64.zero with dp.mix := ⟨0, 0, 0x40000000, true, false⟩ } (fun s => s.dp.mix) =
      some ⟨0x4CCCCCCD, 0, 0x40000000, false, true⟩ ∧
      after .ncoAdvfracMix { benchArgs ⟨0xBFB999999999999A⟩ F64.zero with dp.mix := ⟨0x4CCCCCCD, 0, 0x40000000, false, true⟩ } (fun s => s.dp.mix) =
      some ⟨0x33333333, 0, 0x40000000, false, true⟩ := by decide +kernel

/-- N19 -/
theorem test_ncoSetpointMix :
    after .ncoSetpointMix (withArgs ⟨0x3FD999999999999A⟩ F64.zero) (fun s => s.dp.mix.point) = some 0x66666666 ∧
      after .ncoSetpointMix { benchArgs ⟨0x3FF4000000000000⟩ F64.zero with dp.mix := ⟨7, 0, 0, false, true⟩ } (fun s => s.dp.mix) =
      some ⟨7, 0, 0x40000000, true, false⟩ := by decide +kernel

/-- N20, N21 -/
theorem test_ncoPassedMix :
    after .ncoPassedMix { bench with dp.mix.latch := true, res1 := F64.two } (fun s => (s.res0, s.res1, s.dp.mix.latch)) = some (F64.one, F64.two, false) ∧
      after .ncoPassedMix bench (fun s => s.res0) = some F64.zero := by decide +kernel

/-- N1, N3 -/
theorem test_ncoSetfreqTim :
    after .ncoSetfreqTim (withArgs ⟨0x409C200000000000⟩ ⟨0x40E7700000000000⟩) (fun s => s.dp.tim.ftw) = some 0x0999999A ∧
      after .ncoSetfreqTim (withArgs ⟨0xC09C200000000000⟩ ⟨0x40E7700000000000⟩) (fun s => s.dp.tim.ftw) = some 0xF6666666 := by decide +kernel

/-- N6 -/
theorem test_ncoSetphaseTim :
    after .ncoSetphaseTim (withArgs ⟨0xC056800000000000⟩ F64.zero) (fun s => (s.dp.tim.phase, s.dp.tim.armed)) = some (0xC0000000, true) ∧
      after .ncoSetphaseTim (withArgs ⟨0x3FF0000000000000⟩ F64.zero) (fun s => s.dp.tim.phase) = some 0x00B60B61 := by decide +kernel

/-- N7 -/
theorem test_ncoValueTim :
    after .ncoValueTim { bench with dp.tim.phase := 0x40000000 } (fun s => (s.res0, s.res1)) = some (F64.zero, F64.one) := by decide +kernel

/-- N14: landing on the point; N17: the point while disarmed, then the antipode -/
theorem test_ncoAdvanceTim :
    after .ncoAdvanceTim { bench with dp.tim := ⟨0, 0x40000000, 0x40000000, true, false⟩ } (fun s => s.dp.tim) =
      some ⟨0x40000000, 0x40000000, 0x40000000, false, true⟩ ∧
      after .ncoAdvanceTim { bench with dp.tim := ⟨0, 0xC0000000, 0x10000000, false, false⟩ } (fun s => s.dp.tim) =
      some ⟨0xC0000000, 0xC0000000, 0x10000000, true, false⟩ := by decide +kernel

/-- N10, N11 -/
theorem test_ncoAdvfracTim :
    after .ncoAdvfracTim { benchArgs ⟨0x3FD3333333333333⟩ F64.zero with dp.tim := ⟨0, 0, 0x40000000, true, false⟩ } (fun s => s.dp.tim) =
      some ⟨0x4CCCCCCD, 0, 0x40000000, false, true⟩ ∧
      after .ncoAdvfracTim { benchArgs ⟨0xBFB999999999999A⟩ F64.zero with dp.tim := ⟨0x4CCCCCCD, 0, 0x40000000, false, true⟩ } (fun s => s.dp.tim) =
      some ⟨0x33333333, 0, 0x40000000, false, true⟩ := by decide +kernel

/-- N19 -/
theorem test_ncoSetpointTim :
    after .ncoSetpointTim (withArgs ⟨0x3FD999999999999A⟩ F64.zero) (fun s => s.dp.tim.point) = some 0x66666666 ∧
      after .ncoSetpointTim { benchArgs ⟨0x3FF4000000000000⟩ F64.zero with dp.tim := ⟨7, 0, 0, false, true⟩ } (fun s => s.dp.tim) =
      some ⟨7, 0, 0x40000000, true, false⟩ := by decide +kernel

/-- N20, N21 -/
theorem test_ncoPassedTim :
    after .ncoPassedTim { bench with dp.tim.latch := true, res1 := F64.two } (fun s => (s.res0, s.res1, s.dp.tim.latch)) = some (F64.one, F64.two, false) ∧
      after .ncoPassedTim bench (fun s => s.res0) = some F64.zero := by decide +kernel

/-- N1, N3 -/
theorem test_ncoSetfreqCar :
    after .ncoSetfreqCar (withArgs ⟨0x409C200000000000⟩ ⟨0x40E7700000000000⟩) (fun s => s.dp.car.ftw) = some 0x0999999A ∧
      after .ncoSetfreqCar (withArgs ⟨0xC09C200000000000⟩ ⟨0x40E7700000000000⟩) (fun s => s.dp.car.ftw) = some 0xF6666666 := by decide +kernel

/-- N6 -/
theorem test_ncoSetphaseCar :
    after .ncoSetphaseCar (withArgs ⟨0xC056800000000000⟩ F64.zero) (fun s => (s.dp.car.phase, s.dp.car.armed)) = some (0xC0000000, true) ∧
      after .ncoSetphaseCar (withArgs ⟨0x3FF0000000000000⟩ F64.zero) (fun s => s.dp.car.phase) = some 0x00B60B61 := by decide +kernel

/-- N7 -/
theorem test_ncoValueCar :
    after .ncoValueCar { bench with dp.car.phase := 0x40000000 } (fun s => (s.res0, s.res1)) = some (F64.zero, F64.one) := by decide +kernel

/-- N14: landing on the point; N17: the point while disarmed, then the antipode -/
theorem test_ncoAdvanceCar :
    after .ncoAdvanceCar { bench with dp.car := ⟨0, 0x40000000, 0x40000000, true, false⟩ } (fun s => s.dp.car) =
      some ⟨0x40000000, 0x40000000, 0x40000000, false, true⟩ ∧
      after .ncoAdvanceCar { bench with dp.car := ⟨0, 0xC0000000, 0x10000000, false, false⟩ } (fun s => s.dp.car) =
      some ⟨0xC0000000, 0xC0000000, 0x10000000, true, false⟩ := by decide +kernel

/-- N10, N11 -/
theorem test_ncoAdvfracCar :
    after .ncoAdvfracCar { benchArgs ⟨0x3FD3333333333333⟩ F64.zero with dp.car := ⟨0, 0, 0x40000000, true, false⟩ } (fun s => s.dp.car) =
      some ⟨0x4CCCCCCD, 0, 0x40000000, false, true⟩ ∧
      after .ncoAdvfracCar { benchArgs ⟨0xBFB999999999999A⟩ F64.zero with dp.car := ⟨0x4CCCCCCD, 0, 0x40000000, false, true⟩ } (fun s => s.dp.car) =
      some ⟨0x33333333, 0, 0x40000000, false, true⟩ := by decide +kernel

/-- N19 -/
theorem test_ncoSetpointCar :
    after .ncoSetpointCar (withArgs ⟨0x3FD999999999999A⟩ F64.zero) (fun s => s.dp.car.point) = some 0x66666666 ∧
      after .ncoSetpointCar { benchArgs ⟨0x3FF4000000000000⟩ F64.zero with dp.car := ⟨7, 0, 0, false, true⟩ } (fun s => s.dp.car) =
      some ⟨7, 0, 0x40000000, true, false⟩ := by decide +kernel

/-- N20, N21 -/
theorem test_ncoPassedCar :
    after .ncoPassedCar { bench with dp.car.latch := true, res1 := F64.two } (fun s => (s.res0, s.res1, s.dp.car.latch)) = some (F64.one, F64.two, false) ∧
      after .ncoPassedCar bench (fun s => s.res0) = some F64.zero := by decide +kernel

/-- N5 -/
theorem test_ncoSetfreq_zero_rate :
    after .ncoSetfreqMix (withArgs ⟨0x3FF0000000000000⟩ F64.zero) (fun s => (s.err, s.errInfo, s.dp.mix.ftw)) = some (2, 0x10000000, 0x0999999A) := by decide +kernel

/-- R190 by hand; D3 -/
theorem test_dlPushDlTim :
    after .dlPushDlTim (benchArgs ⟨0x4008000000000000⟩ F64.zero) (fun s => (s.res0, s.dp.dlTim)) = some (F64.one, ⟨[F64.zero, ⟨0x4008000000000000⟩], 0⟩) ∧
      after .dlPushDlTim (withArgs F64.nan F64.zero) (fun s => (s.err, s.errInfo)) = some (2, 0x20000000) := by decide +kernel

/-- R190 by hand, length 1: the previous input -/
theorem test_dlPushDlSym :
    after .dlPushDlSym (benchArgs ⟨0x4008000000000000⟩ ⟨0xC008000000000000⟩) (fun s => (s.res0, s.res1, s.dp.dlSym)) =
      some (F64.two, F64.four, ⟨[⟨⟨0x4008000000000000⟩, ⟨0xC008000000000000⟩⟩], 0⟩) := by decide +kernel

/-- R211 by hand: 0.5 × 2 + 0.25 × 1, and 0.5 × 4 -/
theorem test_mfPush :
    after .mfPush { benchArgs F64.two F64.four with dp.mf.hr := [F64.one, F64.zero] } (fun s => (s.res0, s.res1, s.dp.mf.hr, s.dp.mf.hi)) =
      some (⟨0x3FF4000000000000⟩, F64.two, [F64.two, F64.one], [F64.four, F64.zero]) := by decide +kernel

/-- M1 -/
theorem test_emaPushQgMse :
    after .emaPushQgMse (withArgs F64.zero F64.zero) (fun s => (s.res0, s.dp.qgMse.y)) = some (⟨0x3FEE666666666666⟩, ⟨0x3FEE666666666666⟩) ∧
      after .emaPushQgMse { withArgs ⟨0x4000000000000000⟩ F64.zero with dp.qgMse.y := ⟨0x3FECE147AE147AE1⟩ } (fun s => s.res0) = some ⟨0x3FEEA2D0E5604189⟩ := by decide +kernel

/-- M2 -/
theorem test_emaPushTed :
    after .emaPushTed (withArgs ⟨0x7FAC7B1F3CAC7433⟩ F64.zero) (fun s => s.dp.ted.y) = some ⟨0x7F523A516E82D9BA⟩ := by decide +kernel

/-- M3 -/
theorem test_emaPushBtS :
    after .emaPushBtS (withArgs F64.one F64.zero) (fun s => s.dp.btS.y) = some ⟨0x3F8999999999999A⟩ := by decide +kernel

/-- M4 -/
theorem test_emaPushBtL :
    after .emaPushBtL (withArgs F64.one F64.zero) (fun s => s.dp.btL.y) = some ⟨0x3F4999999999999A⟩ := by decide +kernel

/-- R216 by hand: (0.5 × 6 + 1 × 2) − 0.5 × 4 -/
theorem test_resPush :
    after .resPush (benchArgs ⟨0x4018000000000000⟩ F64.zero) (fun s => (s.res0, s.dp.res.s1, s.dp.res.s2)) = some (⟨0x4008000000000000⟩, ⟨0x4008000000000000⟩, F64.two) := by decide +kernel

/-- G2, G4 -/
theorem test_agcPush :
    after .agcPush (benchArgs F64.half F64.zero) (fun s => (s.dp.agc.m, s.res0, s.res1)) =
      some (⟨0x3FEFEC65F8BB3534⟩, ⟨0x3FE009D308391A29⟩, F64.zero) ∧
      after .agcPush { benchArgs ⟨0x3F50624DD2F1A9FC⟩ F64.zero with dp.agc.m := ⟨0x3EE4F8B588E368F1⟩ } (fun s => (s.dp.agc.m, s.res0)) =
      some (⟨0x3EEEE83F5277038C⟩, F64.four) := by decide +kernel

/-- G7 -/
theorem test_agcPush_overflow :
    after .agcPush (benchArgs ⟨0x7FEE42D130773B76⟩ ⟨0x7FEE42D130773B76⟩) (fun s => (s.err, s.errInfo, s.dp.agc.m)) = some (2, 0x24000000, F64.one) := by decide +kernel

/-- 95_test_vectors.md 2.7 -/
theorem test_sbQuant :
    [⟨0x0000000000000000⟩, ⟨0x3FD0000000000000⟩, ⟨0xBFD0000000000000⟩, ⟨0x3F40000000000000⟩, ⟨0xBF40000000000000⟩, ⟨0x3FCFDF3B645A1CAC⟩, ⟨0x3FCEB851EB851EB8⟩, ⟨0x3FC0000000000000⟩, ⟨0xBFC0000000000000⟩, ⟨0x3FF0000000000000⟩, ⟨0xBFF0000000000000⟩].map (fun v => after .sbQuant (withArgs v F64.zero) (fun s => s.res0)) =
      [some ⟨0x4060000000000000⟩, some ⟨0x406FE00000000000⟩, some ⟨0x0000000000000000⟩, some ⟨0x4060000000000000⟩, some ⟨0x405FC00000000000⟩, some ⟨0x406FC00000000000⟩, some ⟨0x406F400000000000⟩, some ⟨0x4067E00000000000⟩, some ⟨0x4050000000000000⟩, some ⟨0x406FE00000000000⟩, some ⟨0x0000000000000000⟩] := by decide +kernel

/-- 95_test_vectors.md 2.8 -/
theorem test_qgSlice :
    [(⟨0x3FE0000000000000⟩, ⟨0xBFE0000000000000⟩), (⟨0x3FD0000000000000⟩, ⟨0x3FE8000000000000⟩), (⟨0x0000000000000000⟩, ⟨0x0000000000000000⟩), (⟨0x8000000000000000⟩, ⟨0x8000000000000000⟩), (⟨0xBFE0000000000000⟩, ⟨0xBFE0000000000000⟩), (⟨0xBFF0000000000000⟩, ⟨0x3FE0000000000000⟩), (⟨0x3FB999999999999A⟩, ⟨0xBFC999999999999A⟩)].map (fun p => after .qgSlice (withArgs p.1 p.2) (fun s => (s.res0, s.res1))) =
      [some (⟨0x0000000000000000⟩, ⟨0x4000000000000000⟩), some (⟨0x3FE0000000000000⟩, ⟨0x0000000000000000⟩), some (⟨0x4000000000000000⟩, ⟨0x0000000000000000⟩), some (⟨0x4000000000000000⟩, ⟨0x0000000000000000⟩), some (⟨0x0000000000000000⟩, ⟨0x4008000000000000⟩), some (⟨0x3FF0000000000000⟩, ⟨0x3FF0000000000000⟩), some (⟨0x3FF0000000000000⟩, ⟨0x4000000000000000⟩)] := by decide +kernel

/-- P1, with agc_alpha at the value of G1; the taps and a1 play no part in the values looked at -/
theorem test_sample :
    after (.sample 16384 0) { State.reset with dp.agc.alpha := ⟨0x3F739A0744CACC00⟩, dp.mf.taps := List.replicate 80 F64.zero, dp.res.a1 := F64.one }
      (fun s => ((s.dp.agc.m, s.dp.mix.phase, s.dp.tim.phase), (s.dp.car.phase, s.dp.acq.bt1, s.dp.sampleCnt, s.fifo))) =
      some ((⟨0x3FEFEC65F8BB3534⟩, 0x0999999A, 0x03333333), (0, ⟨0x3F780EBC8C55A73E⟩, 1, [])) := by decide +kernel

/-- P5, P6 -/
theorem test_sample_refused :
    after (.sample 0 0) { bench with fifo := List.replicate 61 ⟨0, 0, 0, 0, 0, 0, 0, 0⟩ } (fun s => (s.ovr, s.dp.sampleCnt)) = some (true, 5) ∧
      after (.sample 0 0) { bench with fifo := List.replicate 60 ⟨0, 0, 0, 0, 0, 0, 0, 0⟩ } (fun s => (s.ovr, s.dp.sampleCnt)) = some (false, 6) := by decide +kernel

/-! ### Host accesses, against 95_test_vectors.md 2.12 -/

/-- X1 -/
theorem test_illegal_word :
    stepped (write32 0x010 0x10300000) State.reset (fun s => (s.err, s.errInfo, s.statusWord, s.fifo)) =
      some (1, 0x10300000, 0x00000060, [⟨0x00000007, 1, 0x10300000, 0, 0, 0, 0, 0⟩]) := by decide +kernel

/-- X3 -/
theorem test_bus_fault :
    stepped (read32 0x002) State.reset (fun s => (s.err, s.errInfo, s.bus.resp)) = some (4, 2, some 0) := by decide +kernel

/-- X4, X5 -/
theorem test_refused :
    stepped (write32 0x010 0) { bench with fault := true, err := 1 } (fun s => (s.err, s.dp)) = some (1, bench.dp) ∧
      stepped (write32 0x020 5) { bench with fault := true, err := 1 } (fun s => s.arg0) = some F64.zero ∧
      stepped (read32 0x00C) { bench with fault := true, err := 1 } (fun s => s.bus.resp) = some (some 1) := by decide +kernel

/-- X8 -/
theorem test_reserved :
    stepped (read32 0x018) State.reset (fun s => s.bus.resp) = some (some 0) ∧ stepped (write32 0x000 0) State.reset (fun s => s.fault) = some false := by decide +kernel

/-- X9 -/
theorem test_irq :
    stepped (write32 0x010 0x10300000) { State.reset with ctrl := 8 } (fun s => s.statusWord) = some 0x00000260 := by decide +kernel

/-- C14 -/
theorem test_w1c :
    stepped (write32 0x008 0x100) { bench with ovr := true, evovf := true } (fun s => (s.ovr, s.evovf)) = some (false, true) := by decide +kernel

/-- SETA0 1800.0, its second write -/
theorem test_write_operand_word :
    stepped (write32 0x024 0x409C2000) State.reset (fun s => s.arg0) = some ⟨0x409C200000000000⟩ := by decide +kernel

/-- withFetchWord: the very next step runs the word -/
theorem test_fetch_runs :
    next? (step (State.reset.withFetchWord 32 0x13200000)) = next? (exec .ncoAdvanceCar State.reset) ∧
      next? (step (State.reset.withFetchWord 32 0x02000000)) = some State.reset := by exact ⟨rfl, rfl⟩

/-- R121: the worked expansions of SAMPLE 1000, -1000 and of SETA0 1800.0. -/
theorem test_program_lines :
    (ProgramLine.run (.sample 1000 (-1000))).accesses = [write32 0x140 0xFC1803E8] ∧
      (ProgramLine.seta0 ⟨0x409C200000000000⟩).accesses = [write32 0x020 0, write32 0x024 0x409C2000] := by decide +kernel

/-- R447: an update with d = 1 is present() and logs the rising edge, one with d = 0 is absent() and logs the falling one; by
hand. -/
theorem test_hunter_update :
    let p : HunterParams := { minFreq := F64.zero, maxFreq := ⟨0x40B7700000000000⟩, bandwidth := ⟨0x408C200000000000⟩, maxTries := 15 }
    Hunter.update p { counter := 7, fullscans := 1, dcdPrev := false } true =
        { hunter := { counter := 0, fullscans := 1, dcdPrev := true }, outs := [], edge := some .rising } ∧
      Hunter.update p { counter := 7, fullscans := 1, dcdPrev := true } false =
        { hunter := { counter := 8, fullscans := 1, dcdPrev := false }, outs := [], edge := some .falling } := by decide +kernel

/-- R448: the record of a loss feeds one absent(), which is the cycle's; an idle cycle without a signal feeds one; and the wrap to
0.0 is FREQ_CENTER <- 0.0 and APPLY, whose clamp is 900.0 with the defaults. -/
theorem test_hunter_coupling :
    cycleUpdates [⟨0x00000001, 0, 0, 0, 0, 0, 0, 0⟩, ⟨0x00000102, 0, 0, 0, 0, 0, 0, 0⟩] false = [true, false] ∧
      cycleUpdates [] false = [false] ∧ cycleUpdates [] true = [] ∧
      ((HunterOut.newFreqCenter F64.zero).lines.flatMap ProgramLine.accesses).length = 3 ∧
      after .apply { State.reset with pend.freqCenter := F64.zero } (fun s => s.act.fc) = some ⟨0x408C200000000000⟩ := by decide +kernel

/-! ### Witnesses: for each statement with hypotheses, a state and operands that meet them all -/

/-- The small state with one pending access. -/
def pending (a : Access) : State := { bench with bus.pending := [a] }

/-- The small state, faulted with code 1, with one pending access. -/
def faulted (a : Access) : State := { pending a with fault := true, err := 1 }

/-- The small state with a signal held, at the start of its countdown. -/
def held (st : GateState) : State := { bench with dp.gate.st := st, dp.gate.cd := 3, dp.qgMse.y := F64.one }

theorem witness_DecodeEncode : (Instr.sample (-32768) 32767).WellFormed ∧ Instr.nop.WellFormed := by decide

theorem witness_EncodeDecode : decode .cmd 0x26000000 = .ok .qgSlice ∧ decode .sampleIn 0xFFFFFFFF = .ok (.sample (-1) (-1)) := by
  decide

/-- One word or two for each clause, at the ends of its ranges. -/
theorem witness_IllegalWordFaults :
    (∀ w : Word, (pending (write32 0x010 w)).bus.pending = write32 0x010 w :: [] ∧ (pending (write32 0x010 w)).fault = false) ∧
    ∀ w ∈ [0x00000001, 0x000FFFFF, 0x04000000, 0x0F000000, 0x17000000, 0x1F000000, 0x27000000, 0xFF000000, 0x00100000, 0x03F00000,
        0x10300000, 0x16F00000, 0x20200000, 0x21100000, 0x22400000, 0x23100000, 0x26F00000],
      let op := w / 16777216
      let unit := w / 1048576 % 16
      w % 1048576 ≠ 0 ∨ (0x04 ≤ op ∧ op ≤ 0x0F) ∨ (0x17 ≤ op ∧ op ≤ 0x1F) ∨ 0x27 ≤ op ∨ (op ≤ 0x03 ∧ unit ≠ 0) ∨
        (0x10 ≤ op ∧ op ≤ 0x16 ∧ 3 ≤ unit) ∨ (op = 0x20 ∧ 2 ≤ unit) ∨ (op = 0x21 ∧ unit ≠ 0) ∨ (op = 0x22 ∧ 4 ≤ unit) ∨
        (0x23 ≤ op ∧ op ≤ 0x26 ∧ unit ≠ 0) :=
  ⟨fun _ => ⟨rfl, rfl⟩, by decide⟩

/-- Not faulted, faulted with RESET, and faulted with another command; and a sample. -/
theorem witness_StepRunsDecoded :
    ((pending (write32 0x010 0x13000000)).bus.pending = write32 0x010 0x13000000 :: [] ∧ decode .cmd 0x13000000 = .ok .ncoAdvanceMix ∧
      (pending (write32 0x010 0x13000000)).fault = false) ∧
    ((faulted (write32 0x010 0x02000000)).bus.pending = write32 0x010 0x02000000 :: [] ∧ decode .cmd 0x02000000 = .ok .reset ∧
      (faulted (write32 0x010 0x02000000)).fault = true) ∧
    ((faulted (write32 0x140 0x00004000)).bus.pending = write32 0x140 0x00004000 :: [] ∧
      decode .sampleIn 0x00004000 = .ok (.sample 16384 0) ∧ (faulted (write32 0x140 0x00004000)).fault = true) := by
  decide +kernel

theorem witness_ReadsAnswerAndChangeNothing : ∀ off ∈ [0x000, 0xFFC],
    (pending (read32 off)).bus.pending = read32 off :: [] ∧ off % 4 = 0 ∧ off < 0x1000 := by
  decide +kernel

/-- A narrow write, a wide read, and misaligned 32-bit accesses at both ends of the window. -/
theorem witness_BusFault :
    ∀ a ∈ [(⟨.write 1, .w8, 0x010⟩ : Access), ⟨.write 1, .w16, 0x020⟩, ⟨.read, .w64, 0x000⟩, ⟨.read, .w32, 0x001⟩, ⟨.read, .w32, 0xFFF⟩],
      (pending a).bus.pending = a :: [] ∧ a.off < 0x1000 ∧ (pending a).fault = false ∧ ¬(a.width = .w32 ∧ a.off % 4 = 0) := by
  decide +kernel

/-- One access for each of the four cases. -/
theorem witness_RefusedWhileFaulted :
    ∀ a ∈ [read32 0x00C, write32 0x170 5, write32 0x010 0x02000000, write32 0x010 0x00000000, (⟨.read, .w8, 0x00C⟩ : Access)],
      (faulted a).bus.pending = a :: [] ∧ a.off < 0x1000 ∧ (faulted a).fault = true := by
  decide +kernel

theorem witness_FaultsArePrecise : (pending (write32 0x010 0x10300000)).fault = false ∧
    ∃ t, step (pending (write32 0x010 0x10300000)) = .next t ∧ t.fault = true := ⟨rfl, _, rfl, rfl⟩

/-- Outside the window, inside at both ends (aligned, narrow, and faulted), and nothing pending. -/
theorem witness_OutsideWindowStops :
    ((pending (read32 0x1000)).bus.pending = read32 0x1000 :: [] ∧ 0x1000 ≤ (read32 0x1000).off) ∧
    (∀ a ∈ [read32 0x000, (⟨.write 7, .w8, 0xFFF⟩ : Access)], (pending a).bus.pending = a :: [] ∧ (faulted a).bus.pending = a :: [] ∧
      a.off < 0x1000) ∧ bench.bus.pending = [] := by
  decide +kernel

theorem witness_StatusWriteClears :
    ((pending (write32 0x008 0x180)).bus.pending = write32 0x008 0x180 :: [] ∧ (pending (write32 0x008 0x180)).fault = false) ∧
    ((faulted (write32 0x008 0x180)).bus.pending = write32 0x008 0x180 :: [] ∧ (faulted (write32 0x008 0x180)).fault = true) :=
  ⟨⟨rfl, rfl⟩, ⟨rfl, rfl⟩⟩

theorem witness_OscillatorRegisterWrites : ∀ k ∈ [0, 2], k < 3 ∧ ∀ r ∈ [0x100, 0x104, 0x108],
    (pending (write32 (r + 0x10 * k) 7)).fault = false ∧
      (pending (write32 (r + 0x10 * k) 7)).bus.pending = write32 (r + 0x10 * k) 7 :: [] := by
  decide +kernel

/-- The first and the last operand or setting word, and CTRL with every bit written. -/
theorem witness_StoredRegistersReadBack :
    ∀ off ∈ [0x020, 0x068, 0x004], (pending (write32 off 0xFFFFFFFF)).fault = false ∧
      (pending (write32 off 0xFFFFFFFF)).bus.pending = write32 off 0xFFFFFFFF :: [] := by
  decide +kernel

/-- A write of a reserved offset and of an RO register, and reads of reserved offsets at both ends. -/
theorem witness_ReservedAndReadOnly :
    (∀ off ∈ [0x018, 0x000, 0xFFC, 0x174], off < 0x1000 ∧ off % 4 = 0 ∧ (pending (write32 off 5)).fault = false ∧
      (pending (write32 off 5)).bus.pending = write32 off 5 :: []) ∧
    regAt 0x018 = none ∧ regAt 0xFFC = none ∧ regAt 0x000 = some .id ∧ Reg.code .id = .ro ∧ regAt 0x174 = some .evCount ∧
      Reg.code .evCount = .ro ∧
    (∀ off ∈ [0x018, 0x178, 0xFFC], (pending (read32 off)).bus.pending = read32 off :: [] ∧ (regAt off = none ∨ 0x178 ≤ off)) := by
  decide +kernel

theorem witness_EventPop :
    (pending (write32 0x170 9)).bus.pending = write32 0x170 9 :: [] ∧
    { bench with fifo := [⟨1, 2, 3, 4, 5, 6, 7, 8⟩] }.fifo = ⟨1, 2, 3, 4, 5, 6, 7, 8⟩ :: [] ∧ bench.fifo = [] := ⟨rfl, rfl, rfl⟩

theorem witness_NopAndFlush : bench.fault = false ∧ (faulted (read32 0)).fault = true := ⟨rfl, rfl⟩

/-- Both branches: the default settings, and FS = −0.0. -/
theorem witness_ApplyCompletes :
    (bench.fault = false ∧
      ((∀ x ∈ [bench.pend.fs, bench.pend.fb, bench.pend.freqCenter, bench.pend.lockBw, bench.pend.sigThresh], x.isFinite = true) ∧
        F64.lt F64.zero bench.pend.fs = true ∧ F64.lt F64.zero bench.pend.fb = true)) ∧
    F64.lt F64.zero F64.negZero = false := by
  decide +kernel

/-- Without and with a signal held. -/
theorem witness_ApplyIdempotent :
    bench.fault = false ∧ settingsLegal bench.pend = true ∧ bench.dp.gate.st = .noSig ∧ (held .lock).fault = false ∧
      settingsLegal (held .lock).pend = true ∧ (held .lock).dp.gate.st ≠ .noSig ∧ (held .lock).fifo.length < 64 := by
  decide +kernel

/-- Legal settings with a non-empty and with an empty range for FREQ_CENTER. -/
theorem witness_ClampedSettings :
    settingsLegal defaultSettings = true ∧ settingsLegal { defaultSettings with fb := ⟨0x40F86A0000000000⟩ } = true ∧
    (let a := activeOf defaultSettings 0
     F64.le (F64.mul ⟨0x3FE8000000000000⟩ a.fb) ((a.fs.div F64.two).sub (F64.mul ⟨0x3FE8000000000000⟩ a.fb)) = true) ∧
    (let a := activeOf { defaultSettings with fb := ⟨0x40F86A0000000000⟩ } 0
     F64.le (F64.mul ⟨0x3FE8000000000000⟩ a.fb) ((a.fs.div F64.two).sub (F64.mul ⟨0x3FE8000000000000⟩ a.fb)) = false) := by
  decide +kernel

theorem witness_RebuildCannotFault : settingsLegal defaultSettings = true := by decide +kernel

theorem witness_GeometryBounds :
    (settingsLegal defaultSettings = true ∧ F64.le ⟨0x0170000000000000⟩ defaultSettings.fs = true) ∧
    (settingsLegal { defaultSettings with fs := ⟨0x0170000000000000⟩ } = true ∧
      F64.le ⟨0x0170000000000000⟩ ⟨0x0170000000000000⟩ = true) := by
  decide +kernel

theorem witness_BinSpacingAlwaysPositive : settingsLegal defaultSettings = true := by decide +kernel

/-- Both branches of the oscillator commands that read operands: (1800, 48000), and a rate of zero or a NaN. -/
theorem witness_NcoSetfreq :
    (let s := benchArgs ⟨0x409C200000000000⟩ ⟨0x40E7700000000000⟩
     s.fault = false ∧ s.arg0.isFinite = true ∧ s.arg1.isFinite = true ∧ F64.lt F64.zero s.arg1 = true ∧ Turns (s.arg0.div s.arg1)) ∧
    (benchArgs F64.one F64.zero).fault = false ∧ F64.lt F64.zero (benchArgs F64.one F64.zero).arg1 = false := by
  decide +kernel

theorem witness_NcoSetphase :
    (let s := benchArgs ⟨0x4056800000000000⟩ F64.zero
     s.fault = false ∧ s.arg0.isFinite = true ∧ Turns (s.arg0.div ⟨0x4076800000000000⟩)) ∧
    (benchArgs F64.nan F64.zero).fault = false ∧ (benchArgs F64.nan F64.zero).arg0.isFinite = false := by
  decide +kernel

theorem witness_NcoValue : bench.fault = false := rfl
theorem witness_NcoAdvance : bench.fault = false := rfl
theorem witness_NcoPassed : bench.fault = false := rfl

/-- A forward word, a backward word (half a cycle), and a NaN. -/
theorem witness_NcoAdvfrac :
    bench.fault = false ∧ Turns (benchArgs ⟨0x3FD3333333333333⟩ F64.zero).arg0 ∧ (turnWord ⟨0x3FD3333333333333⟩).toNat < 2 ^ 31 ∧
      Turns (benchArgs F64.half F64.zero).arg0 ∧ ¬(turnWord F64.half).toNat < 2 ^ 31 ∧ ¬Turns (benchArgs F64.nan F64.zero).arg0 := by
  decide +kernel

theorem witness_NcoSetpoint :
    bench.fault = false ∧ Turns (benchArgs ⟨0x3FF4000000000000⟩ F64.zero).arg0 ∧ ¬Turns (benchArgs F64.nan F64.zero).arg0 := by
  decide +kernel

theorem witness_PhaseAfterAdvances :
    ({ phase := 0, ftw := 0x0999999A, point := 0, armed := true, latch := false } : Osc).phase = 0 ∧
      (0x0999999A : Word) = turnWord (F64.div ⟨0x409C200000000000⟩ ⟨0x40E7700000000000⟩) := by
  decide +kernel

/-- The timing oscillator as reset leaves it, and one that moves more than half a cycle at a time. -/
theorem witness_OncePerCycle :
    ∀ o ∈ [(⟨0, 0x03333333, 0x66666666, true, false⟩ : Osc), ⟨5, 0xFFFFFFFF, 5, true, false⟩],
      o.armed = true ∧ o.latch = false ∧ 0 < o.ftw.toNat := by
  decide +kernel

theorem witness_DelayLineIsExact : 1 ≤ 1 := le_refl 1

theorem witness_DlPush :
    (benchArgs F64.one F64.two).fault = false ∧
    (∃ h : (benchArgs F64.one F64.two).dp.dlTim.ptr < (benchArgs F64.one F64.two).dp.dlTim.buf.length,
      ((benchArgs F64.one F64.two).dp.dlTim.buf[(benchArgs F64.one F64.two).dp.dlTim.ptr]).isFinite = true) ∧
    (∃ h : (benchArgs F64.one F64.two).dp.dlSym.ptr < (benchArgs F64.one F64.two).dp.dlSym.buf.length,
      ((benchArgs F64.one F64.two).dp.dlSym.buf[(benchArgs F64.one F64.two).dp.dlSym.ptr]).isFinite = true) := by
  decide +kernel

theorem witness_MfPush :
    bench.fault = false ∧ 1 ≤ bench.dp.nmf ∧ bench.dp.mf.taps.length = bench.dp.nmf ∧ bench.dp.mf.hr.length = bench.dp.nmf ∧
      bench.dp.mf.hi.length = bench.dp.nmf ∧ (∀ x ∈ bench.dp.mf.hr ++ bench.dp.mf.hi, x.isFinite = true) := by
  decide +kernel

theorem witness_EmaPush : bench.fault = false := rfl
theorem witness_ResPush : bench.fault = false ∧ bench.dp.res.s1.isFinite = true := by decide +kernel

theorem witness_AgcPush : bench.fault = false ∧
    (let s := benchArgs F64.half F64.zero
     let z : Cplx := ⟨s.arg0, s.arg1⟩
     let m := s.dp.agc.m.add (s.dp.agc.alpha.mul (z.cabs.sub s.dp.agc.m))
     let gn := F64.one.div (F64.fmax m ⟨0x3F1A36E2EB1C432D⟩)
     let part (x : F64) : F64 := F64.clamp (gn.mul x) ⟨0xC010000000000000⟩ ⟨0x4010000000000000⟩
     (s.arg0.isFinite && s.arg1.isFinite && m.isFinite && (part s.arg0).isFinite && (part s.arg1).isFinite) = true) := by
  decide +kernel

theorem witness_SbQuant : bench.fault = false ∧ (benchArgs F64.half F64.zero).arg0.isFinite = true ∧
    ¬(benchArgs F64.inf F64.zero).arg0.isFinite = true := by decide +kernel

theorem witness_QgSlice : bench.fault = false := rfl

theorem bench_finite : ∀ x ∈ [bench.res0, bench.res1] ++ bench.act.reals ++ bench.dp.reals, x.isFinite = true := by decide +kernel

/-- The premises of the ordinary sample, each computed. -/
def ordinaryPremises (s : State) (i q : Int) (reportDue : Bool) : Bool :=
  let d := s.dp
  let z : Cplx := ⟨(F64.ofInt i).div ⟨0x40E0000000000000⟩, (F64.ofInt q).div ⟨0x40E0000000000000⟩⟩
  let m := d.agc.m.add (d.agc.alpha.mul (z.cabs.sub d.agc.m))
  let xm := Cplx.mulconj (agcLevelled m z) (phasor d.mix.phase)
  let bs := d.btS.y.add (d.btS.alpha.mul (xm.cabs.sub d.btS.y))
  let bl := d.btL.y.add (d.btL.alpha.mul (xm.cabs.sub d.btL.y))
  let bt := F64.fmin (bs.sub bl) ⟨0x4010000000000000⟩
  let xc := Cplx.mulconj xm (phasor d.car.phase)
  let hr := (xc.re :: d.mf.hr).take d.nmf
  let hi := (xc.im :: d.mf.hi).take d.nmf
  let y : Cplx :=
    ⟨(List.zipWith F64.mul d.mf.taps hr).foldl F64.add ⟨0⟩, (List.zipWith F64.mul d.mf.taps hi).foldl F64.add ⟨0⟩⟩
  let u := (y.re.mul y.re).add (y.im.mul y.im)
  let r := ((d.res.g.mul u).add (d.res.a1.mul d.res.s1)).sub (d.res.a2.mul d.res.s2)
  let ct := phasor d.tim.phase
  let et := (d.dlTim.buf.getD d.dlTim.ptr ⟨0⟩).mul (F64.two.mul (ct.re.mul ct.im))
  let ef := d.ted.y.add (d.ted.alpha.mul (et.sub d.ted.y))
  let p := if d.timRamp = 0 then F64.one else F64.fmin F64.one ((F64.ofNat d.gate.symSince.toNat).div (F64.ofNat d.timRamp))
  let gain := F64.add ⟨0x3FAEB851EB851EB8⟩ ((F64.sub ⟨0x3FA47AE147AE147B⟩ ⟨0x3FAEB851EB851EB8⟩).mul p)
  let tim := (d.tim.movedForward d.tim.ftw).nudged (turnWord (gain.mul ef).neg)
  let t := { s with dp := { d with
    agc.m := m, mix := d.mix.movedForward d.mix.ftw, btS.y := bs, btL.y := bl
    acq := { d.acq with bt1 := bt, bt2 := d.acq.bt1, armed := if F64.lt bt ⟨0x3FB999999999999A⟩ then true else d.acq.armed }
    car := d.car.movedForward d.car.ftw, mf := { d.mf with hr := hr, hi := hi }, dlSym := d.dlSym.pushed y
    res := { d.res with s1 := r, s2 := d.res.s1 }, dlTim := d.dlTim.pushed r, ted.y := ef, tim := tim
    sampleCnt := d.sampleCnt + 1
    gate.sinceLock := if d.gate.sinceLock = 0xFFFFFFFF then d.gate.sinceLock else d.gate.sinceLock + 1 } }
  decide (FitsI16 i) && decide (FitsI16 q) && !s.fault && decide (s.fifo.length ≤ 60) && !s.act.ctrl.getLsbD 0 &&
    decide (s.dp.gate.st = .noSig) && decide (s.dp.acq.st ≠ .filling) &&
    !(d.acq.armed && F64.lt ⟨0x3FE0000000000000⟩ d.acq.bt1 && F64.le d.acq.bt2 d.acq.bt1 && F64.lt bt d.acq.bt1) &&
    (gain.mul ef).neg.isFinite && ((gain.mul ef).neg.mul ⟨0x41F0000000000000⟩).isFinite && !tim.latch &&
    (decide ((d.sampleCnt + 1).toNat % d.gate.report = 0) == reportDue) && (sampleWrites false s.dp t.dp).all F64.isFinite

/-- The whole chain: any finite state that accepts the sample. The ordinary sample (16384, −8192): with no report due, and with one
due (SAMPLE_CNT = 99, REPORT = 100). -/
theorem witness_SampleOrdinary :
    (bench.Finite ∧ bench.fault = false ∧ bench.fifo.length ≤ 60) ∧ ordinaryPremises bench 16384 (-8192) false = true ∧
      ordinaryPremises { bench with dp.sampleCnt := 99 } 16384 (-8192) true = true :=
  ⟨⟨bench_finite, rfl, by decide⟩, by decide +kernel, by decide +kernel⟩

/-- Refused with 61 records; accepted, and not faulting, with 60. -/
theorem witness_SampleFrame :
    (let s := { bench with fifo := List.replicate 61 ⟨0, 0, 0, 0, 0, 0, 0, 0⟩ }
     s.fault = false ∧ 60 < s.fifo.length ∧ ∃ t, exec (.sample 0 0) s = .next t) ∧
    (let s := { bench with fifo := List.replicate 60 ⟨0, 0, 0, 0, 0, 0, 0, 0⟩ }
     s.fault = false ∧ s.fifo.length ≤ 60 ∧ ∃ t, exec (.sample 0 0) s = .next t ∧ t.fault = false) :=
  ⟨⟨rfl, by decide, _, rfl⟩, ⟨rfl, by decide, _, rfl, by decide +kernel⟩⟩

/-- Symbol instants of every kind: no signal held in burst mode; no signal held in continuous mode with the MSE that 0.5 and 0.5
leave below a threshold of 1.0, which locks; and a signal held with 10 elements, so that the second byte flushes the buffer. -/
theorem witness_SymbolInstant :
    (F64.half.isFinite = true ∧ F64.one.isFinite = true) ∧
    (bench.dp.gate.st = .noSig ∧ bench.act.ctrl.getLsbD 0 = false) ∧
    (let s := { bench with act.ctrl := 1, act.thr := F64.one }
     let er := (F64.half.div F64.half).sub (F64.sgn F64.half)
     s.act.ctrl.getLsbD 0 = true ∧ s.dp.gate.st = .noSig ∧
       F64.lt (s.dp.qgMse.y.add (s.dp.qgMse.alpha.mul (((er.mul er).add (er.mul er)).sub s.dp.qgMse.y))) s.act.thr = true) ∧
    (let s := { held .acq with dp.gate.sb := List.replicate 10 7 }
     s.dp.gate.st ≠ .noSig ∧ (s.dp.gate.sb ++ [1, 2]).length = 12) := by
  decide +kernel

/-- With an empty soft-bit buffer, and with one that the sentinel completes. -/
theorem witness_TridentAccept :
    ∀ sb ∈ [([] : List (BitVec 16)), List.replicate 11 7],
    let s := { bench with dp.gate.sb := sb }
    let newf := s.dp.gate.carrier.add
      ((((F64.ofInt (2 + 3)).div F64.two).sub ((F64.ofNat s.dp.acq.nacq).div F64.two)).mul F64.one)
    newf.isFinite = true ∧ s.act.fs.isFinite = true ∧ F64.lt F64.zero s.act.fs = true ∧ Turns (newf.div s.act.fs) := by
  decide +kernel

/-- The small state while it fills its buffer of two cells, with no peak. -/
def filling (ptr : Nat) : State := { bench with dp.acq.st := .filling, dp.acq.ptr := ptr }

/-- No fill under way, the first sample of a fill, its last one, and a peak. -/
theorem witness_BurstAcquisition :
    bench.act.ctrl.getLsbD 0 = false ∧ bench.dp.acq.st ≠ .filling ∧ F64.lt ⟨0x3FE0000000000000⟩ bench.dp.acq.bt1 = false ∧
    ((filling 0).dp.acq.st = .filling ∧ 0 + 1 ≠ (filling 0).dp.acq.lb + (filling 0).dp.acq.lt) ∧
    ((filling 1).dp.acq.st = .filling ∧ 1 + 1 = (filling 1).dp.acq.lb + (filling 1).dp.acq.lt) ∧
    (let b : Burst := { bench.dp.acq with bt1 := F64.one }
     (b.armed && F64.lt ⟨0x3FE0000000000000⟩ b.bt1 && F64.le b.bt2 b.bt1 && F64.lt F64.zero b.bt1) = true) := by
  decide +kernel

/-- Spectra of four bins: the base tone at bin k, 300 strong, and flat top bins. -/
def toneAt (k i : Nat) : Cplx := if i = k then ⟨⟨0x4072C00000000000⟩, F64.zero⟩ else Cplx.zero
def flat (_ : Nat) : Cplx := ⟨F64.one, F64.zero⟩

/-- FB = 48000 and hzb = 12000 give SP = 1, DZ = 1 and SM = 2. -/
theorem test_trident_geometry :
    let sp := (F64.mul ⟨0x3FD0000000000000⟩ bench.act.fb).div ⟨0x40C7700000000000⟩
    (sp.div F64.two).round = 1 ∧ (F64.two.mul sp).round = 2 ∧ F64.eq sp F64.zero = false ∧ bench.dp.acq.nacq = 4 ∧
      (bench.dp.acq.lb ≤ 4 ∧ bench.dp.acq.lt ≤ 4 ∧ bench.dp.acq.buf.length = bench.dp.acq.lb + bench.dp.acq.lt) ∧
      F64.eq ⟨0x40C7700000000000⟩ F64.zero = false ∧ F64.eq F64.zero F64.zero = true := by
  decide +kernel

theorem tone_at_strongest : IsStrongestBin 4 (fun i => (toneAt 2 i).cabs) 2 ∧ IsStrongestBin 4 (fun i => (toneAt 0 i).cabs) 0 := by
  unfold IsStrongestBin
  decide +kernel

theorem tones_finite : ∀ k ∈ [0, 2], ∀ i < 4, (toneAt k i).cabs.isFinite = true ∧ (flat i).cabs.isFinite = true := by decide +kernel

/-- A tone at bin 2 has a side bin on both sides, and one at bin 0 has none below. -/
theorem witness_TridentDecision :
    IsSideBin 4 (fun i => (flat i).cabs) 2 1 2 (-1) 1 ∧ IsSideBin 4 (fun i => (flat i).cabs) 2 1 2 1 3 ∧
      ∀ i : Int, ¬IsSideBin 4 (fun i => (flat i).cabs) 0 1 2 (-1) i := by
  have le : ∀ i j : Nat, F64.le (flat i).cabs (flat j).cabs = true := fun _ _ => by simp only [flat]; decide +kernel
  refine ⟨⟨1, by decide, by decide, by decide, by decide, by decide, fun e h _ _ _ => ⟨le _ _, by omega⟩⟩,
    ⟨1, by decide, by decide, by decide, by decide, by decide, fun e h _ _ _ => ⟨le _ _, by omega⟩⟩, ?_⟩
  rintro i ⟨d, h, _, rfl, h', _⟩
  omega

/-- The small state in continuous mode, at the start and at the end of a frame. -/
def continuous (ptr : Nat) : State := { bench with act.ctrl := 1, dp.cont.ptr := ptr }

/-- A sample inside a frame and one that ends it; and a fold with one centre, and with none, in range. -/
theorem witness_ContinuousEstimator :
    ((continuous 0).act.ctrl.getLsbD 0 = true ∧ 0 + 1 ≠ (continuous 0).dp.cont.nc) ∧
    ((continuous 15).act.ctrl.getLsbD 0 = true ∧ 15 + 1 = (continuous 15).dp.cont.nc) ∧
    (((F64.two.div F64.two).div F64.one).round = 1 ∧ (F64.zero.div F64.one).round = 0 ∧ (∀ x ∈ [F64.one], x.isFinite = true)) ∧
    IsFoldCentre 4 [F64.one] 1 0 0 ∧ ∀ k : Int, -0 ≤ k → k ≤ 0 → ¬FoldInRange 0 1 k := by
  refine ⟨by decide +kernel, by decide +kernel, by decide +kernel, ⟨⟨by decide, by decide, by unfold FoldInRange; decide⟩, ?_⟩, ?_⟩
  · intro j h h' _
    obtain rfl : j = 0 := by omega
    exact ⟨by decide +kernel, by omega⟩
  · rintro k - - ⟨h, h', -⟩
    simp at h h'
    omega

theorem witness_AtMostFourEvents : bench.fault = false ∧ ∃ t, exec (.sample 0 0) bench = .next t ∧ t.fault = false :=
  ⟨rfl, _, rfl, by decide +kernel⟩

/-- A step that keeps DCD, one (APPLY with a signal held) that clears it, and the same on a full FIFO; and RESET. -/
theorem witness_DcdEdgesHaveEvents :
    (∃ t, step (pending (read32 0)) = .next t) ∧
    (∃ t, step { held .lock with bus.pending := [write32 0x010 0x01000000] } = .next t ∧ t.dcd = false) ∧
    (let s := { held .lock with bus.pending := [write32 0x010 0x01000000], fifo := List.replicate 64 ⟨0, 0, 0, 0, 0, 0, 0, 0⟩ }
     ∃ t, step s = .next t ∧ s.fifo.length = 64 ∧ s.dcd = true ∧ t.dcd = false ∧ t.evovf = true) ∧
    ∃ t, step (pending (write32 0x010 0x02000000)) = .next t :=
  ⟨⟨_, rfl⟩, ⟨_, rfl, by decide +kernel⟩, ⟨_, rfl, by decide +kernel⟩, ⟨_, rfl⟩⟩

/-- The small state one gate step before the loss. -/
def lastStep : State := { held .lock with dp.gate.cd := 1 }

/-- The state right after a lock, with QG_DELAY = 2 and QG_CD = 3; NoSignal; and LOCK with the MSE below the threshold, and above
it with more than one step left and with one. -/
theorem witness_GateCountdown :
    (let s := held .acq
     s.dp.gate.st = .acq ∧ s.dp.gate.acqEl = 0 ∧ s.dp.gate.cd = BitVec.ofNat 32 s.dp.gate.qgCd ∧ 1 ≤ s.dp.gate.qgCd ∧
       s.dp.gate.qgCd < 2 ^ 32 ∧ s.dp.gate.qgDelay < 2 ^ 32 ∧ s.fifo.length < 64 ∧ F64.lt s.dp.qgMse.y s.act.thr = false ∧
       s.act.fc.isFinite = true ∧ s.act.fs.isFinite = true ∧ F64.lt F64.zero s.act.fs = true ∧ Turns (s.act.fc.div s.act.fs)) ∧
    bench.dp.gate.st = .noSig ∧
    (let s := { held .lock with dp.qgMse.y := F64.zero }
     s.dp.gate.st = .lock ∧ F64.lt s.dp.qgMse.y s.act.thr = true) ∧
    ((held .lock).dp.gate.st = .lock ∧ F64.lt (held .lock).dp.qgMse.y (held .lock).act.thr = false ∧
      (held .lock).dp.gate.cd - 1 ≠ 0 ∧ (lastStep.dp.gate.st = .lock ∧ F64.lt lastStep.dp.qgMse.y lastStep.act.thr = false) ∧
      lastStep.dp.gate.cd - 1 = 0 ∧ lastStep.act = bench.act) := by
  decide +kernel

theorem witness_PendingSettingsAreInert : ∃ t, exec (.sample 1000 (-1000)) bench = .next t := ⟨_, rfl⟩

theorem pending_wf : (pending (write32 0x140 0)).WF := by decide +kernel
theorem witness_ShapeIsKept : (pending (write32 0x140 0)).WF ∧ ∃ t, step (pending (write32 0x140 0)) = .next t :=
  ⟨pending_wf, _, rfl⟩

theorem witness_FinitenessIsKept : (pending (write32 0x140 0)).Finite ∧ ∃ t, step (pending (write32 0x140 0)) = .next t :=
  ⟨bench_finite, _, rfl⟩

/-- In burst mode and in continuous mode. -/
theorem witness_ModeViewsAreKept :
    ((pending (write32 0x140 0)).ModeViews ∧ ∃ t, step (pending (write32 0x140 0)) = .next t) ∧
    ({ pending (write32 0x140 0) with act.ctrl := 1 }.ModeViews ∧
      ∃ t, step { pending (write32 0x140 0) with act.ctrl := 1 } = .next t) :=
  ⟨⟨by decide +kernel, _, rfl⟩, ⟨by decide +kernel, _, rfl⟩⟩

theorem witness_ArithmeticRoundsOnce :
    (F64.one.isFinite = true ∧ F64.two.isFinite = true ∧ F64.two.isZero = false) ∧
    (F64.two.isFinite = true ∧ F64.two.sign = false) ∧ (F64.negZero.isFinite = true ∧ F64.negZero.isZero = true) := by decide

end Sys2Proof.Tests
end

section
/-! SUPPORT. Each arithmetic operation and the square root is one correct rounding (00_scope.md R16, R17): statement O59. -/

namespace Sys2Proof

namespace F64

/-! ### Negation, zeros and the sign (R16) -/

theorem isFinite_not_isInf {x : F64} (h : x.isFinite = true) : x.isInf = false := by
  simp only [isFinite, bne_iff_ne] at h
  simp [isInf, h]

/-- A negation flips the top bit alone. -/
theorem neg_bits_toNat (x : F64) : x.neg.bits.toNat = x.bits.toNat ^^^ 2 ^ 63 := BitVec.toNat_xor ..

@[simp] theorem neg_sign (x : F64) : x.neg.sign = !x.sign := by
  simp only [sign, neg, BitVec.msb_xor]
  rw [show BitVec.msb (0x8000000000000000 : BitVec 64) = true by decide, Bool.xor_true]

@[simp] theorem neg_expField (x : F64) : x.neg.expField = x.expField := by
  unfold expField
  rw [neg_bits_toNat, Nat.xor_div_two_pow, Nat.xor_mod_two_pow]
  norm_num

@[simp] theorem neg_frac (x : F64) : x.neg.frac = x.frac := by
  unfold frac
  rw [neg_bits_toNat, Nat.xor_mod_two_pow]
  norm_num

@[simp] theorem neg_mant (x : F64) : x.neg.mant = x.mant := by simp [mant]

@[simp] theorem neg_expo (x : F64) : x.neg.expo = x.expo := by simp [expo]

@[simp] theorem neg_isFinite (x : F64) : x.neg.isFinite = x.isFinite := by simp [isFinite]

theorem signFactor_not (s : Bool) : signFactor (!s) = -signFactor s := by
  cases s <;> simp [signFactor]

theorem signFactor_bne (s t : Bool) : signFactor (s != t) = signFactor s * signFactor t := by
  cases s <;> cases t <;> simp [signFactor]

theorem abs_signFactor (s : Bool) : |signFactor s| = 1 := by
  cases s <;> simp [signFactor]

theorem toReal_neg (x : F64) : x.neg.toReal = -x.toReal := by
  rw [toReal_eq, toReal_eq, neg_sign, neg_mant, neg_expo, signFactor_not]
  ring

/-- The magnitude bits are the exponent field and the fraction. -/
theorem mag_eq (x : F64) : x.mag = x.expField * 2 ^ 52 + x.frac := by
  unfold mag expField frac; omega

theorem isZero_iff_mant {x : F64} : x.isZero = true ↔ x.mant = 0 := by
  have := frac_lt x
  rw [isZero, beq_iff_eq, mag_eq]
  unfold mant
  split <;> omega

theorem toReal_eq_zero_iff {x : F64} : x.toReal = 0 ↔ x.mant = 0 := by
  have hs : signFactor x.sign ≠ 0 := by rw [← abs_pos, abs_signFactor]; norm_num
  have he : (2 : ℝ) ^ x.expo ≠ 0 := by positivity
  rw [toReal_eq]
  simp [hs, he]

theorem toReal_of_isZero {x : F64} (h : x.isZero = true) : x.toReal = 0 :=
  toReal_eq_zero_iff.mpr (isZero_iff_mant.mp h)

theorem abs_toReal (x : F64) : |x.toReal| = x.mant * (2 : ℝ) ^ x.expo := by
  rw [toReal_eq, abs_mul, abs_mul, abs_signFactor, one_mul, Nat.abs_cast, abs_of_pos (by positivity)]

/-! ### The rounding function on every exact value (R16) -/

theorem overflowBound_pos : 0 < overflowBound := by
  unfold overflowBound
  rw [sub_pos]
  exact pow_lt_pow_right₀ (by norm_num) (by norm_num)

/-- A value that stands for zero is the correct rounding of zero. -/
theorem rounds_zero {r : F64} (hf : r.isFinite = true) (hr : r.toReal = 0) : Rounds 0 r := by
  have hpos := overflowBound_pos
  refine ⟨fun _ => ⟨hf, fun z _ => ?_⟩, fun h => absurd h (not_le.mpr hpos), fun h => ?_⟩
  · rw [hr, sub_zero, sub_zero, abs_zero]
    exact ⟨abs_nonneg _, fun h => .inl (abs_eq_zero.mp h.symm).symm⟩
  · linarith

theorem pack_zero (s : Bool) : (pack s 0).isFinite = true ∧ (pack s 0).toReal = 0 := by
  have hz : ∀ s, (pack s 0).isFinite = true ∧ (pack s 0).isZero = true := by decide
  exact ⟨(hz s).1, toReal_of_isZero (hz s).2⟩

/-- `roundPack` of an exact product `m × 2^e` is correct rounding, zero included (R16). -/
theorem roundPack_rounds_exact (s : Bool) (m : ℕ) (e : ℤ) :
    Rounds (signFactor s * m * (2 : ℝ) ^ e) (roundPack s m e false) := by
  rcases eq_or_ne m 0 with rfl | hm
  · have hp : roundPack s 0 e false = pack s 0 := if_pos rfl
    rw [hp, Nat.cast_zero, mul_zero, zero_mul]
    exact rounds_zero (pack_zero s).1 (pack_zero s).2
  · have h := roundPack_rounds s m e false 0 hm (fun _ => rfl) (by simp)
    rwa [exactOf, add_zero] at h

/-! ### Sums (R16) -/

/-- The significand aligned at an exponent not above the value's own stands for the same value. -/
theorem signedAt_value (x : F64) {e : ℤ} (he : e ≤ x.expo) : (x.signedAt e : ℝ) * (2 : ℝ) ^ e = x.toReal := by
  obtain ⟨j, hj⟩ : ∃ j : ℕ, x.expo = e + j := ⟨(x.expo - e).toNat, by omega⟩
  have hjn : (x.expo - e).toNat = j := by omega
  rw [toReal_eq, signedAt, hjn, hj, zpow_add₀ two_ne_zero, zpow_natCast]
  cases x.sign <;> simp [signFactor] <;> ring

/-- An integer as sign and magnitude. -/
theorem signFactor_natAbs (n : ℤ) : signFactor (decide (n < 0)) * (n.natAbs : ℝ) = n := by
  rw [Nat.cast_natAbs, signFactor]
  by_cases h : n < 0
  · simp [h, abs_of_neg h]
  · simp [h, abs_of_nonneg (not_lt.mp h)]

theorem rounds_add {x y : F64} (hx : x.isFinite = true) (hy : y.isFinite = true) :
    Rounds (x.toReal + y.toReal) (x.add y) := by
  set e := min x.expo y.expo with he
  set n := x.signedAt e + y.signedAt e with hn
  have hsum : x.toReal + y.toReal = n * (2 : ℝ) ^ e := by
    rw [← signedAt_value x (min_le_left _ _ : e ≤ x.expo), ← signedAt_value y (min_le_right _ _ : e ≤ y.expo), hn]
    push_cast; ring
  have hadd : x.add y = if n = 0 then pack (x.sign && y.sign) 0 else roundPack (decide (n < 0)) n.natAbs e false := by
    simp [add, isFinite_not_isNaN hx, isFinite_not_isNaN hy, isFinite_not_isInf hx, isFinite_not_isInf hy, hn, he]
  rw [hadd, hsum]
  split_ifs with h
  · rw [h, Int.cast_zero, zero_mul]
    exact rounds_zero (pack_zero _).1 (pack_zero _).2
  · rw [← signFactor_natAbs n]
    exact roundPack_rounds_exact _ _ _

theorem rounds_sub {x y : F64} (hx : x.isFinite = true) (hy : y.isFinite = true) :
    Rounds (x.toReal - y.toReal) (x.sub y) := by
  rw [sub_eq_add_neg, ← toReal_neg]
  exact rounds_add hx ((neg_isFinite y).trans hy)

/-! ### Products and quotients (R16) -/

theorem rounds_mul {x y : F64} (hx : x.isFinite = true) (hy : y.isFinite = true) :
    Rounds (x.toReal * y.toReal) (x.mul y) := by
  have hmul : x.mul y = roundPack (x.sign != y.sign) (x.mant * y.mant) (x.expo + y.expo) false := by
    simp [mul, isFinite_not_isNaN hx, isFinite_not_isNaN hy, isFinite_not_isInf hx, isFinite_not_isInf hy]
  have hval : x.toReal * y.toReal =
      signFactor (x.sign != y.sign) * (x.mant * y.mant : ℕ) * (2 : ℝ) ^ (x.expo + y.expo) := by
    rw [toReal_eq, toReal_eq, signFactor_bne, zpow_add₀ two_ne_zero]
    push_cast; ring
  rw [hmul, hval]
  exact roundPack_rounds_exact _ _ _

/-- A nonzero significand, scaled by 2^120, has a quotient by any significand of at least 67 bits. -/
theorem quotient_bits {m n : ℕ} (hm : m ≠ 0) (hn : n < 2 ^ 53) (hn0 : n ≠ 0) : 2 ^ 53 ≤ m * 2 ^ 120 / n := by
  rw [Nat.le_div_iff_mul_le (Nat.pos_of_ne_zero hn0)]
  calc 2 ^ 53 * n ≤ 2 ^ 53 * 2 ^ 53 := Nat.mul_le_mul_left _ hn.le
    _ ≤ 1 * 2 ^ 120 := by norm_num
    _ ≤ m * 2 ^ 120 := Nat.mul_le_mul_right _ (Nat.one_le_iff_ne_zero.mpr hm)

theorem rounds_div {x y : F64} (hx : x.isFinite = true) (hy : y.isFinite = true) (hz : y.isZero = false) :
    Rounds (x.toReal / y.toReal) (x.div y) := by
  have hym : y.mant ≠ 0 := fun h => by simp [isZero_iff_mant.mpr h] at hz
  set n := x.mant * 2 ^ 120 with hn
  set e := x.expo - y.expo - 120 with he
  have hdiv : x.div y = roundPack (x.sign != y.sign) (n / y.mant) e (n % y.mant != 0) := by
    simp [div, isFinite_not_isNaN hx, isFinite_not_isNaN hy, isFinite_not_isInf hx, isFinite_not_isInf hy, hz, hn, he]
  have hymR : (0 : ℝ) < y.mant := by exact_mod_cast Nat.pos_of_ne_zero hym
  -- the remainder is the part of the quotient below one unit
  have hval : x.toReal / y.toReal = exactOf (x.sign != y.sign) (n / y.mant) e ((n % y.mant : ℕ) / (y.mant : ℝ)) := by
    have hquo : ((n / y.mant : ℕ) : ℝ) + (n % y.mant : ℕ) / (y.mant : ℝ) = x.mant * 2 ^ 120 / y.mant := by
      have h : (y.mant : ℝ) * (n / y.mant : ℕ) + (n % y.mant : ℕ) = x.mant * 2 ^ 120 := by
        exact_mod_cast Nat.div_add_mod n y.mant
      rw [← h]
      field_simp
    have hinv : (signFactor y.sign)⁻¹ = signFactor y.sign := by cases y.sign <;> norm_num [signFactor]
    have h120 : (2 : ℝ) ^ (120 : ℤ) = 2 ^ 120 := zpow_natCast 2 120
    rw [exactOf, hquo, he, toReal_eq, toReal_eq, signFactor_bne, zpow_sub₀ two_ne_zero, zpow_sub₀ two_ne_zero, h120,
      div_eq_mul_inv, mul_inv, mul_inv, hinv]
    field_simp
  rw [hdiv, hval]
  rcases eq_or_ne x.mant 0 with hxm | hxm
  · have hn0 : n = 0 := by rw [hn, hxm, Nat.zero_mul]
    have h := roundPack_rounds_exact (x.sign != y.sign) 0 e
    simpa [exactOf, hn0] using h
  · have hmpos : (n % y.mant : ℕ) < y.mant := Nat.mod_lt _ (Nat.pos_of_ne_zero hym)
    have hbits : 2 ^ 53 ≤ n / y.mant := quotient_bits hxm (mant_lt y) hym
    refine roundPack_rounds _ _ _ _ _ (by omega) (fun h => ?_) (fun h => ⟨?_, ?_, hbits⟩)
    · simp only [bne_eq_false_iff_eq] at h
      simp [h]
    · simp only [bne_iff_ne] at h
      have : (0 : ℝ) < (n % y.mant : ℕ) := by exact_mod_cast Nat.pos_of_ne_zero h
      positivity
    · rw [div_lt_one hymR]
      exact_mod_cast hmpos

/-! ### Square roots (R16, R17) -/

/-- The bitwise search finds the integer square root, if `r` is below it by less than `2^k`. -/
theorem isqrt_spec (n k : ℕ) : ∀ r : ℕ, r * r ≤ n → n < (r + 2 ^ k) * (r + 2 ^ k) →
    isqrt n k r * isqrt n k r ≤ n ∧ n < (isqrt n k r + 1) * (isqrt n k r + 1) := by
  induction k with
  | zero => exact fun r hlo hhi => ⟨hlo, hhi⟩
  | succ k ih =>
    intro r hlo hhi
    rw [isqrt]
    split_ifs with h
    · exact ih _ h (by rwa [add_assoc, ← two_mul, ← pow_succ'])
    · exact ih _ hlo (not_le.mp h)

theorem sqrt_toReal {x : F64} (hs : x.sign = false) {k : ℤ} {d : ℕ} (hd : x.expo - d = 2 * k) :
    Real.sqrt x.toReal = Real.sqrt (x.mant * 2 ^ d : ℕ) * (2 : ℝ) ^ k := by
  have hx : x.toReal = (x.mant * 2 ^ d : ℕ) * ((2 : ℝ) ^ k) ^ 2 := by
    have he : x.expo = d + (k + k) := by omega
    rw [toReal_eq, hs, he, zpow_add₀ two_ne_zero, zpow_add₀ two_ne_zero, zpow_natCast, signFactor]
    push_cast; simp; ring
  rw [hx, Real.sqrt_mul (Nat.cast_nonneg _), Real.sqrt_sq (by positivity)]

theorem rounds_sqrt {x : F64} (hx : x.isFinite = true) (hs : x.sign = false ∨ x.isZero = true) :
    Rounds (Real.sqrt x.toReal) x.sqrt := by
  by_cases hz : x.isZero = true
  · have hr : x.sqrt = x := by simp [sqrt, isFinite_not_isNaN hx, hz]
    rw [toReal_of_isZero hz, Real.sqrt_zero, hr]
    exact rounds_zero hx (toReal_of_isZero hz)
  have hs : x.sign = false := hs.resolve_right hz
  have hm : 1 ≤ x.mant := Nat.one_le_iff_ne_zero.mpr (mt isZero_iff_mant.mpr hz)
  obtain ⟨d, hd, hpar⟩ : ∃ d : ℕ, (110 ≤ d ∧ d ≤ 111) ∧ (if x.expo % 2 = 0 then 110 else 111) = d ∧
      x.expo - d = 2 * ((x.expo - d) / 2) := by
    split_ifs <;> exact ⟨_, by omega, rfl, by omega⟩
  obtain ⟨hdef, hpar⟩ := hpar
  set n := x.mant * 2 ^ d with hn
  set r := isqrt n 83 0 with hr
  have hsqrt : x.sqrt = roundPack false r ((x.expo - d) / 2) (r * r != n) := by
    simp only [sqrt, isFinite_not_isNaN hx, isFinite_not_isInf hx, hs, hz, hdef, Bool.false_eq_true, if_false, ← hn, ← hr]
  have hnlo : 2 ^ 110 ≤ n := by
    calc 2 ^ 110 ≤ 1 * 2 ^ d := by rw [one_mul]; exact Nat.pow_le_pow_right (by norm_num) hd.1
      _ ≤ n := Nat.mul_le_mul_right _ hm
  have hnhi : n < 2 ^ 166 := by
    calc n < 2 ^ 53 * 2 ^ d := Nat.mul_lt_mul_of_pos_right (mant_lt x) (by positivity)
      _ ≤ 2 ^ 53 * 2 ^ 111 := Nat.mul_le_mul_left _ (Nat.pow_le_pow_right (by norm_num) hd.2)
      _ ≤ 2 ^ 166 := by norm_num
  obtain ⟨hrlo, hrhi⟩ : r * r ≤ n ∧ n < (r + 1) * (r + 1) :=
    isqrt_spec n 83 0 (Nat.zero_le _) (by rw [zero_add, ← pow_add]; exact hnhi)
  have hr53 : 2 ^ 53 ≤ r := by
    by_contra h
    have hle : (r + 1) * (r + 1) ≤ 2 ^ 53 * 2 ^ 53 := Nat.mul_le_mul (by omega) (by omega)
    norm_num at hle hnlo
    omega
  have hlo : (r : ℝ) ≤ Real.sqrt n := by
    rw [← Real.sqrt_mul_self (Nat.cast_nonneg r)]
    exact Real.sqrt_le_sqrt (by exact_mod_cast hrlo)
  have hhi : Real.sqrt n < r + 1 := by
    rw [Real.sqrt_lt' (by positivity), sq]
    exact_mod_cast hrhi
  have hval : Real.sqrt x.toReal = exactOf false r ((x.expo - d) / 2) (Real.sqrt n - r) := by
    rw [sqrt_toReal hs hpar, ← hn, exactOf, signFactor]
    simp
  rw [hsqrt, hval]
  refine roundPack_rounds _ _ _ _ _ (by omega) (fun h => ?_) (fun h => ⟨?_, by linarith, hr53⟩)
  · have hsq : r * r = n := by simpa using h
    rw [← hsq, Nat.cast_mul, Real.sqrt_mul_self (Nat.cast_nonneg r), sub_self]
  · have hne : r * r ≠ n := by simpa using h
    refine sub_pos.mpr (lt_of_le_of_ne hlo fun he => hne ?_)
    have : (r : ℝ) * r = n := by rw [he, Real.mul_self_sqrt (Nat.cast_nonneg n)]
    exact_mod_cast this

/-- Settles O59: every operation is `roundPack` applied to its exact result. -/
theorem arithmeticRoundsOnce : Obligations.ArithmeticRoundsOnce :=
  ⟨fun _ _ hx hy => ⟨rounds_add hx hy, rounds_sub hx hy, rounds_mul hx hy, rounds_div hx hy⟩,
    fun _ hx hs => rounds_sqrt hx hs⟩

end F64
end Sys2Proof
end

section
/-! SUPPORT. What the step does with the host's oldest access (00_scope.md R10; 30_encoding.md R111; 60_exceptions.md R404):
statements O6 and O12. -/

namespace Sys2Proof.Machine

/-! ### Every access inside the window answers a next state (R10, R80) -/

/-- Every instruction answers a next state, faults included (R401). -/
theorem exec_next (i : Instr) (s : State) : ∃ t, exec i s = .next t := by
  cases i <;> exact ⟨_, rfl⟩

/-- A word written to CMD or SAMPLE_IN answers a next state, legal or not (R115, R116). -/
theorem runWord_next (p : Port) (w : Word) (s : State) : ∃ t, runWord p w s = .next t := by
  unfold runWord
  split
  · exact exec_next _ s
  · exact ⟨_, rfl⟩

theorem writeWord_next (off : Nat) (v : Word) (s : State) : ∃ t, writeWord off v s = .next t := by
  rcases writeWord_cases off v s with ⟨-, h⟩ | ⟨-, h⟩ | ⟨r, -, -, -, h⟩ | ⟨-, h⟩ <;> rw [h]
  · exact runWord_next _ v s
  · exact runWord_next _ v s
  · exact ⟨_, rfl⟩
  · exact ⟨_, rfl⟩

theorem takeAccess_next (a : Access) (s : State) : ∃ t, takeAccess a s = .next t := by
  rcases takeAccess_cases a s with ⟨-, -, h⟩ | ⟨-, -, h⟩ | ⟨-, -, h⟩ | ⟨-, -, v, -, h⟩ <;> rw [h]
  · exact ⟨_, rfl⟩
  · exact ⟨_, rfl⟩
  · exact ⟨_, rfl⟩
  · exact writeWord_next _ v s

/-- Settles O12: the step is the oldest access, and each access in the window answers a next state. -/
theorem outsideWindowStops : Obligations.OutsideWindowStops :=
  ⟨fun s _ rest hp => ⟨step_outside hp, fun ho => step_access hp ho ▸ takeAccess_next _ (s.takeAccess rest)⟩,
    fun _ hp => step_idle hp⟩

/-! ### The fetch of a written word (R111, R116, R404) -/

/-- The write of a word to its port is an aligned access in the window, and it runs the word (R111, R377). -/
theorem ofWord_facts (p : Port) (w : Word) (s : State) :
    (Access.ofWord p w).off < 0x1000 ∧ (Access.ofWord p w).aligned32 = true ∧
      writeWord (Access.ofWord p w).off w s = runWord p w s := by
  cases p
  · exact ⟨show 0x010 < 0x1000 by decide, by simp [Access.aligned32, Access.ofWord, portOffset, cmdOffset], rfl⟩
  · exact ⟨show 0x140 < 0x1000 by decide, by simp [Access.aligned32, Access.ofWord, portOffset, sampleInOffset], rfl⟩

/-- RESET has one word (R114). -/
theorem decodeCmd_eq_reset {w : Word} (h : decodeCmd w = .ok .reset) : w = cmdWord 0x02 0 := by
  unfold decodeCmd at h
  split_ifs at h with hz ho
  split at h
  case h_2 => cases h
  case h_1 r hr =>
    have hmem := List.mem_of_find?_eq_some hr
    have hsel := List.find?_some hr
    have hreset : ∀ r ∈ cmdRows, r.instr = .reset → r.op = 2 ∧ r.unit = 0 := by decide
    obtain ⟨hop, hunit⟩ := hreset r hmem (Except.ok.inj h)
    simp only [Bool.and_eq_true, beq_iff_eq, hop, hunit] at hsel
    apply BitVec.eq_of_toNat_eq
    simp only [fieldOp, fieldUnit, fieldZ, ne_eq, not_not] at hsel hz
    have : (cmdWord 0x02 0).toNat = 0x02000000 := by decide
    omega

/-- The reset word decodes to RESET (R375). -/
theorem decode_resetWord : decode .cmd (cmdWord 0x02 0) = .ok .reset := by decide

/-- Of the writes that run an instruction, only RESET's is accepted while FAULT = 1 (R404). -/
theorem ofWord_acceptedWhileFaulted {p : Port} {w : Word} {i : Instr} (hd : decode p w = .ok i) :
    (Access.ofWord p w).acceptedWhileFaulted = true ↔ i = .reset := by
  cases p with
  | sampleIn =>
    have hi : decodeSample w = i := Except.ok.inj hd
    rw [← hi]
    simp [Access.acceptedWhileFaulted, Access.ofWord, Access.aligned32, portOffset, sampleInOffset, cmdOffset, evPopOffset,
      decodeSample]
  | cmd =>
    have hacc : (Access.ofWord .cmd w).acceptedWhileFaulted = true ↔ w = cmdWord 0x02 0 := by
      simp [Access.acceptedWhileFaulted, Access.ofWord, Access.aligned32, portOffset, cmdOffset, evPopOffset]
    rw [hacc]
    constructor
    · rintro rfl
      exact Except.ok.inj (hd.symm.trans decode_resetWord)
    · rintro rfl
      exact decodeCmd_eq_reset hd

/-- Settles O6: the pending write is an access to the port, so either it is refused or its word runs. -/
theorem stepRunsDecoded : Obligations.StepRunsDecoded := by
  intro p w i s rest hp hd
  have hp' : s.bus.pending = Access.ofWord p w :: rest := by cases p <;> exact hp
  obtain ⟨hwin, hal, hrun⟩ := ofWord_facts p w (s.takeAccess rest)
  have hacc := ofWord_acceptedWhileFaulted hd
  have hexec : writeWord (Access.ofWord p w).off w (s.takeAccess rest) = exec i (s.takeAccess rest) := by
    rw [hrun, runWord, hd]
  rw [step_access hp' hwin]
  constructor
  · intro h
    have hopen : (s.fault && !(Access.ofWord p w).acceptedWhileFaulted) = false := by
      rcases h with h | h
      · simp [h]
      · simp [hacc.mpr h]
    rw [← hexec, takeAccess, State.takeAccess_fault, hopen, hal]
    rfl
  · intro hf hi
    have hshut : (s.fault && !(Access.ofWord p w).acceptedWhileFaulted) = true := by
      simp [hf, mt hacc.mp hi]
    rw [takeAccess, State.takeAccess_fault, hshut]
    rfl

end Sys2Proof.Machine
end

section
/-! SUPPORT. The oscillator commands (40_nco.md R150 to R166): statements O27, O28, O29, O31 and O32. -/

namespace Sys2Proof.Machine

/-! ### Phase words (R23) -/

theorem phaseFaults_eq_false_iff {x : F64} : phaseFaults x = false ↔ Turns x := by
  simp [phaseFaults, Turns, F64.two32]

theorem phaseword_of_turns {x : F64} (h : Turns x) : phaseword x = .ok (turnWord x) := by
  rw [phaseword, phaseFaults_eq_false_iff.mpr h]
  rfl

theorem phaseword_of_not_turns {x : F64} (h : ¬Turns x) : phaseword x = .error .badArg := by
  rw [phaseword, if_pos]
  exact Bool.not_eq_false _ ▸ mt phaseFaults_eq_false_iff.mp h

/-! ### The frame of an oscillator command (R116, R118, R401) -/

section OscCommand

variable {w : Word} {args : List F64} {s : State} {k : OscId} {r : Res Osc}

/-- An oscillator command that computes the oscillator `o` writes it and nothing else. -/
theorem oscCommand_ok {o : Osc} (hf : s.fault = false) (ha : args.all F64.isFinite = true) (hr : r = .ok o) :
    runCommand w args s (r.map fun o => (s.setOsc k o, [])) = s.setOsc k o :=
  runCommand_ok hf ha (by rw [hr]; rfl) rfl

/-- An oscillator command with a bad argument or a faulting computation takes BAD_ARG with its word. -/
theorem oscCommand_badArg (hf : s.fault = false) (h : args.all F64.isFinite = true → r = .error .badArg) :
    runCommand w args s (r.map fun o => (s.setOsc k o, [])) = raiseFault .badArg w s := by
  cases ha : args.all F64.isFinite
  · simp [runCommand, hf, ha]
  · simp [runCommand, hf, ha, h ha, Except.map]

end OscCommand

/-! ### NCO.SETFREQ (R157, R160) -/

/-- A finite value is positive exactly when it is not at most zero. -/
theorem le_zero_eq_not_lt {x : F64} (h : x.isFinite = true) : F64.le x F64.zero = !F64.lt F64.zero x := by
  have hz : F64.zero.isNaN = false ∧ F64.zero.key = 0 := by decide
  rw [Bool.eq_iff_iff, Bool.not_eq_true', ← Bool.not_eq_true, F64.le_iff, F64.lt_iff]
  simp [F64.isFinite_not_isNaN h, hz]

theorem ncoSetfreq_ok (k : OscId) {s : State} (hf : s.fault = false) (h0 : s.arg0.isFinite = true)
    (h1 : s.arg1.isFinite = true) (hpos : F64.lt F64.zero s.arg1 = true) (ht : Turns (s.arg0.div s.arg1)) :
    ncoSetfreq k s = s.setOsc k { s.osc k with ftw := turnWord (s.arg0.div s.arg1) } := by
  refine oscCommand_ok hf (by simp [h0, h1]) ?_
  rw [Osc.setFrequency, le_zero_eq_not_lt h1, h0, h1, hpos, phaseword_of_turns ht]
  rfl

theorem ncoSetfreq_badArg (k : OscId) {s : State} (hf : s.fault = false)
    (h : ¬(s.arg0.isFinite = true ∧ s.arg1.isFinite = true ∧ F64.lt F64.zero s.arg1 = true ∧ Turns (s.arg0.div s.arg1))) :
    ncoSetfreq k s = raiseFault .badArg (cmdWord 0x10 k.unit) s := by
  refine oscCommand_badArg hf fun ha => ?_
  obtain ⟨h0, h1⟩ : s.arg0.isFinite = true ∧ s.arg1.isFinite = true := by simpa using ha
  rw [Osc.setFrequency, le_zero_eq_not_lt h1, h0, h1]
  cases hpos : F64.lt F64.zero s.arg1
  · rfl
  · rw [phaseword_of_not_turns fun ht => h ⟨h0, h1, hpos, ht⟩]
    rfl

/-! ### NCO.SETPHASE (R152, R161) -/

/-- Degrees as cycles, ARG0 / 360. -/
def degreeTurns (x : F64) : F64 := x.div ⟨0x4076800000000000⟩

theorem ncoSetphase_ok (k : OscId) {s : State} (hf : s.fault = false) (h0 : s.arg0.isFinite = true)
    (ht : Turns (degreeTurns s.arg0)) :
    ncoSetphase k s = s.setOsc k { s.osc k with phase := turnWord (degreeTurns s.arg0), armed := true } := by
  refine oscCommand_ok hf (by simp [h0]) ?_
  rw [Osc.setPhase, ← degreeTurns, phaseword_of_turns ht]
  rfl

theorem ncoSetphase_badArg (k : OscId) {s : State} (hf : s.fault = false)
    (h : ¬(s.arg0.isFinite = true ∧ Turns (degreeTurns s.arg0))) :
    ncoSetphase k s = raiseFault .badArg (cmdWord 0x11 k.unit) s := by
  refine oscCommand_badArg hf fun ha => ?_
  rw [Osc.setPhase, ← degreeTurns, phaseword_of_not_turns fun ht => h ⟨by simpa using ha, ht⟩]
  rfl

/-! ### NCO.SETPOINT (R158, R165) -/

theorem ncoSetpoint_ok (k : OscId) {s : State} (hf : s.fault = false) (ht : Turns s.arg0) :
    ncoSetpoint k s = s.setOsc k { s.osc k with point := turnWord s.arg0, armed := true, latch := false } := by
  refine oscCommand_ok hf (by simp [ht.1]) ?_
  rw [Osc.setPoint, phaseword_of_turns ht]
  rfl

theorem ncoSetpoint_badArg (k : OscId) {s : State} (hf : s.fault = false) (h : ¬Turns s.arg0) :
    ncoSetpoint k s = raiseFault .badArg (cmdWord 0x15 k.unit) s := by
  refine oscCommand_badArg hf fun _ => ?_
  rw [Osc.setPoint, phaseword_of_not_turns h]
  rfl

/-! ### NCO.ADVFRAC (R151, R155, R164) -/

theorem Osc.distPoint_toNat (o : Osc) : o.distPoint.toNat = forwardDistance o.phase.toNat o.point.toNat := by
  have hcomm : 2 ^ 32 - o.phase.toNat + o.point.toNat = o.point.toNat + 2 ^ 32 - o.phase.toNat := by
    have := o.phase.isLt; omega
  rw [Osc.distPoint, forwardDistance, BitVec.toNat_sub, hcomm]

theorem Osc.distAntipode_toNat (o : Osc) :
    o.distAntipode.toNat = forwardDistance o.phase.toNat ((o.point.toNat + 2 ^ 31) % 2 ^ 32) := by
  have hA : (0x80000000 + o.point : Word).toNat = (o.point.toNat + 2 ^ 31) % 2 ^ 32 := by
    rw [BitVec.toNat_add, Nat.add_comm, show (0x80000000 : Word).toNat = 2 ^ 31 from rfl]
  have hcomm (n : ℕ) : 2 ^ 32 - o.phase.toNat + n = n + 2 ^ 32 - o.phase.toNat := by
    have := o.phase.isLt; omega
  rw [Osc.distAntipode, forwardDistance, BitVec.toNat_sub, hA, hcomm]

/-- The point and its antipode are half a cycle apart, so a move meets them at different distances. -/
theorem forwardDistance_antipode_ne {a b : ℕ} (ha : a < 2 ^ 32) :
    forwardDistance a b ≠ forwardDistance a ((b + 2 ^ 31) % 2 ^ 32) := by
  unfold forwardDistance
  omega

theorem arcHits_eq (d l : Word) : arcHits d l = decide (1 ≤ d.toNat ∧ d.toNat ≤ l.toNat) := by
  simp [arcHits, Nat.one_le_iff_ne_zero, Nat.pos_iff_ne_zero]

/-- The crossings in closed form: of two, the later leaves its mark on `armed`, and an earlier antipode re-arms (R151). -/
theorem Osc.crossings_eq (o : Osc) (l : Word) :
    o.crossings l = { o.movedForward l with phase := o.phase } := by
  unfold Osc.crossings Osc.movedForward
  rw [arcHits_eq, arcHits_eq, Osc.distPoint_toNat, Osc.distAntipode_toNat]
  obtain ⟨phase, ftw, point, armed, latch⟩ := o
  have hne := forwardDistance_antipode_ne (b := point.toNat) phase.isLt
  generalize forwardDistance phase.toNat point.toNat = dP at hne ⊢
  generalize forwardDistance phase.toNat ((point.toNat + 2 ^ 31) % 2 ^ 32) = dA at hne ⊢
  by_cases hP : 1 ≤ dP ∧ dP ≤ l.toNat
  · by_cases hA : 1 ≤ dA ∧ dA ≤ l.toNat
    · rcases lt_or_gt_of_ne hne with h | h
      · cases armed <;> simp [Osc.passPoint, Osc.passAntipode, Osc.crossPoint, Osc.crossAntipode, hP, hA, h, h.le.not_gt]
      · simp [Osc.passPoint, Osc.passAntipode, Osc.crossPoint, Osc.crossAntipode, hP, hA, h, h.le.not_gt]
    · cases armed <;> simp [Osc.passPoint, Osc.passAntipode, Osc.crossPoint, hP, hA]
  · by_cases hA : 1 ≤ dA ∧ dA ≤ l.toNat
    · simp [Osc.passPoint, Osc.passAntipode, Osc.crossAntipode, hP, hA]
    · simp [Osc.passPoint, Osc.passAntipode, hP, hA]

/-- A forward move is its closed form (R151). -/
theorem Osc.fwd_eq_movedForward (o : Osc) (l : Word) : o.fwd l = o.movedForward l := by
  have hphase : o.phase + l = BitVec.ofNat 32 (o.phase.toNat + l.toNat) := by
    apply BitVec.eq_of_toNat_eq; simp
  unfold Osc.fwd
  split_ifs with hl
  · have hnone (d : ℕ) : ¬(1 ≤ d ∧ d ≤ l.toNat) := by rw [hl, show (0 : Word).toNat = 0 from rfl]; omega
    simp only [Osc.movedForward, hnone, ← hphase, false_and, if_false, decide_false, Bool.or_false]
    rw [hl, show o.phase + 0 = o.phase from BitVec.add_zero _]
  · rw [Osc.crossings_eq, hphase]
    rfl

theorem Osc.nudge_eq_nudged (o : Osc) (d : Word) : o.nudge d = o.nudged d := by
  rw [Osc.nudge, Osc.nudged, Osc.fwd_eq_movedForward]

theorem ncoAdvfrac_ok (k : OscId) {s : State} (hf : s.fault = false) (ht : Turns s.arg0) :
    ncoAdvfrac k s = s.setOsc k ((s.osc k).nudged (turnWord s.arg0)) := by
  refine oscCommand_ok hf (by simp [ht.1]) ?_
  rw [Osc.advanceFraction, phaseword_of_turns ht, ← Osc.nudge_eq_nudged]
  rfl

theorem ncoAdvfrac_badArg (k : OscId) {s : State} (hf : s.fault = false) (h : ¬Turns s.arg0) :
    ncoAdvfrac k s = raiseFault .badArg (cmdWord 0x14 k.unit) s := by
  refine oscCommand_badArg hf fun _ => ?_
  rw [Osc.advanceFraction, phaseword_of_not_turns h]
  rfl

/-! ### NCO.VALUE (R24, R153, R162) -/

theorem ncoValue_eq (k : OscId) {s : State} (hf : s.fault = false) : ncoValue k s = s.setRes (phasor (s.osc k).phase) := by
  have hfin := cis_finite (s.osc k).phase
  exact runCommand_ok hf rfl rfl (by simp [Osc.value, hfin])

end Sys2Proof.Machine

namespace Sys2Proof.Settled

open Sys2Proof.Machine

/-- What holds of the outcome on each oscillator holds on all three (R150). -/
theorem each_oscillator {f g : OscId → State} (h : ∀ k, f k = g k) :
    (.next (f .mix) : StepOutcome) = .next (g .mix) ∧ (.next (f .tim) : StepOutcome) = .next (g .tim) ∧
      (.next (f .car) : StepOutcome) = .next (g .car) :=
  ⟨congrArg _ (h .mix), congrArg _ (h .tim), congrArg _ (h .car)⟩

/-- Settles O27: the conditions of the frame and of setFrequency are those of the statement. -/
theorem ncoSetfreq : Obligations.NcoSetfreq := by
  intro s hf
  split_ifs with h
  · obtain ⟨h0, h1, hpos, ht⟩ := h
    exact each_oscillator fun k => ncoSetfreq_ok k hf h0 h1 hpos ht
  · exact each_oscillator fun k => ncoSetfreq_badArg k hf h

/-- Settles O28: the command is setPhase in the frame of an oscillator command. -/
theorem ncoSetphase : Obligations.NcoSetphase := by
  intro s hf x
  split_ifs with h
  · exact each_oscillator fun k => ncoSetphase_ok k hf h.1 h.2
  · exact each_oscillator fun k => ncoSetphase_badArg k hf h

/-- Settles O29: the output is finite at every phase, so the command always completes with `phasor` of the phase. -/
theorem ncoValue : Obligations.NcoValue := by
  intro s hf value
  have hval (p : Word) : value p (s.setRes (phasor p)) := by
    simp only [value, phasor]
    split_ifs <;> rfl
  obtain ⟨hmix, htim, hcar⟩ := each_oscillator fun k => ncoValue_eq k hf
  exact ⟨⟨_, hmix, hval _⟩, ⟨_, htim, hval _⟩, ⟨_, hcar, hval _⟩⟩

/-- Settles O31: a nudge is its closed form, forward or backward. -/
theorem ncoAdvfrac : Obligations.NcoAdvfrac := by
  intro s hf d nudged
  split_ifs with h
  · exact each_oscillator fun k => ncoAdvfrac_ok k hf h
  · exact each_oscillator fun k => ncoAdvfrac_badArg k hf h

/-- Settles O32: the command is setPoint in the frame of an oscillator command. -/
theorem ncoSetpoint : Obligations.NcoSetpoint := by
  intro s hf
  split_ifs with h
  · exact each_oscillator fun k => ncoSetpoint_ok k hf h
  · exact each_oscillator fun k => ncoSetpoint_badArg k hf h

end Sys2Proof.Settled
end

section
/-! SUPPORT. The order of binary64 values, rounding between two of them, and what APPLY's clamps leave (00_scope.md R16;
46_control.md R371, R372): statement O24. -/

namespace Sys2Proof.F64

/-! ### The order of encodings is the order of values (R16) -/

theorem expo_eq (x : F64) : x.expo = max (x.expField : ℤ) 1 - 1075 := by
  unfold expo; split <;> omega

/-- A larger magnitude encodes a value at least as large. -/
theorem abs_toReal_mono {x y : F64} (h : x.mag ≤ y.mag) : |x.toReal| ≤ |y.toReal| := by
  have hfx := frac_lt x
  have hfy := frac_lt y
  rw [mag_eq, mag_eq] at h
  rw [abs_toReal, abs_toReal]
  rcases lt_or_ge x.expField y.expField with hlt | hge
  · have hmy : 2 ^ 52 ≤ y.mant := by rw [mant, if_neg (by omega)]; omega
    have hexp : (x.mant : ℝ) * 2 ^ x.expo ≤ 2 ^ 52 * 2 ^ y.expo := by
      rcases Nat.eq_zero_or_pos x.expField with h0 | h0
      · have hmx : x.mant ≤ 2 ^ 52 := by rw [mant, if_pos h0]; omega
        have hle : x.expo ≤ y.expo := by rw [expo_eq, expo_eq]; omega
        have hmx' : (x.mant : ℝ) ≤ 2 ^ 52 := by exact_mod_cast hmx
        gcongr
        norm_num
      · have hmx : (x.mant : ℝ) ≤ 2 ^ 53 := by exact_mod_cast (mant_lt x).le
        have hle : x.expo + 1 ≤ y.expo := by rw [expo_eq, expo_eq]; omega
        calc (x.mant : ℝ) * 2 ^ x.expo ≤ 2 ^ 53 * 2 ^ x.expo := by gcongr
          _ = 2 ^ 52 * 2 ^ (x.expo + 1) := by rw [zpow_add₀ two_ne_zero]; ring
          _ ≤ 2 ^ 52 * 2 ^ y.expo := by gcongr; norm_num
    refine hexp.trans ?_
    gcongr
    exact_mod_cast hmy
  · have hexp : x.expField = y.expField := by omega
    have hmant : x.mant ≤ y.mant := by unfold mant; rw [hexp]; split <;> omega
    rw [expo_eq, expo_eq, hexp]
    gcongr

theorem toReal_of_sign (x : F64) : x.toReal = if x.sign then -|x.toReal| else |x.toReal| := by
  rw [abs_toReal, toReal_eq]
  cases x.sign <;> simp [signFactor]

theorem toReal_le_of_le {x y : F64} (h : le x y = true) : x.toReal ≤ y.toReal := by
  obtain ⟨-, -, hk⟩ := le_iff.mp h
  have hx := abs_nonneg x.toReal
  have hy := abs_nonneg y.toReal
  unfold key at hk
  rw [toReal_of_sign x, toReal_of_sign y]
  cases hsx : x.sign <;> cases hsy : y.sign <;> simp only [hsx, hsy, if_true, if_false, Bool.false_eq_true] at hk ⊢
  · exact abs_toReal_mono (by omega)
  · have hzero {z : F64} (hz : z.mag = 0) : z.toReal = 0 := toReal_of_isZero (by simp [isZero, hz])
    rw [hzero (z := x) (by omega), hzero (z := y) (by omega)]
    simp
  · linarith
  · exact neg_le_neg (abs_toReal_mono (by omega))

theorem toReal_pos_of_lt {x : F64} (h : lt zero x = true) : 0 < x.toReal := by
  obtain ⟨-, -, hk⟩ := lt_iff.mp h
  have hle := toReal_le_of_le (le_iff.mpr ⟨(lt_iff.mp h).1, (lt_iff.mp h).2.1, hk.le⟩)
  rw [toReal_of_isZero (x := zero) (by decide)] at hle
  refine lt_of_le_of_ne hle fun h0 => ?_
  have hz := isZero_iff_mant.mpr (toReal_eq_zero_iff.mp h0.symm)
  have hmag : x.mag = 0 := by simpa [isZero] using hz
  rw [show zero.key = 0 by decide, key, hmag] at hk
  simp at hk

/-- `min` takes the lesser value. -/
theorem toReal_fmin {x y : F64} (hx : x.isNaN = false) (hy : y.isNaN = false) :
    (fmin x y).toReal = min x.toReal y.toReal := by
  obtain ⟨h | h, hle, hle'⟩ := fmin_spec hx hy <;> rw [h] at hle hle' ⊢
  · exact (min_eq_left (toReal_le_of_le hle')).symm
  · exact (min_eq_right (toReal_le_of_le hle)).symm

/-- `max` takes the greater value. -/
theorem toReal_fmax {x y : F64} (hx : x.isNaN = false) (hy : y.isNaN = false) :
    (fmax x y).toReal = max x.toReal y.toReal := by
  obtain ⟨h | h, hle, hle'⟩ := fmax_spec hx hy <;> rw [h] at hle hle' ⊢
  · exact (max_eq_left (toReal_le_of_le hle')).symm
  · exact (max_eq_right (toReal_le_of_le hle)).symm

theorem fmin_finite {x y : F64} (hx : x.isFinite = true) (hy : y.isFinite = true) : (fmin x y).isFinite = true := by
  rcases (fmin_spec (isFinite_not_isNaN hx) (isFinite_not_isNaN hy)).1 with h | h <;> rw [h] <;> assumption

theorem fmax_finite {x y : F64} (hx : x.isFinite = true) (hy : y.isFinite = true) : (fmax x y).isFinite = true := by
  rcases (fmax_spec (isFinite_not_isNaN hx) (isFinite_not_isNaN hy)).1 with h | h <;> rw [h] <;> assumption

/-! ### Rounding keeps an exact result between two binary64 values between them (R16) -/

theorem overflowBound_eq : overflowBound = (2 ^ 53 - 1 / 2) * 2 ^ (971 : ℤ) := by
  have h1 : (2 : ℝ) ^ 1024 = 2 ^ 53 * 2 ^ (971 : ℤ) := by
    rw [← zpow_natCast, ← zpow_natCast, ← zpow_add₀ two_ne_zero]; norm_num
  have h2 : (2 : ℝ) ^ (971 : ℤ) = 2 * 2 ^ 970 := by
    rw [← zpow_natCast, show (971 : ℤ) = 1 + (970 : ℕ) by norm_num, zpow_add₀ two_ne_zero, zpow_one]
  have h3 : (2 : ℝ) ^ 970 = 1 / 2 * 2 ^ (971 : ℤ) := by
    rw [h2, ← mul_assoc, one_div, inv_mul_cancel₀ two_ne_zero, one_mul]
  rw [overflowBound, h1, h3]; ring

/-- A finite value lies below the overflow threshold. -/
theorem abs_toReal_lt_overflow {x : F64} (h : x.isFinite = true) : |x.toReal| < overflowBound := by
  have hfield : x.expField < 2048 := Nat.mod_lt _ (by norm_num)
  have hmax : x.expField ≠ 2047 := by simpa [isFinite] using h
  have hexp : x.expo ≤ 971 := by rw [expo_eq]; omega
  have hm : (x.mant : ℝ) + 1 ≤ 2 ^ 53 := by exact_mod_cast mant_lt x
  have hpos : (0 : ℝ) < 2 ^ (971 : ℤ) := by positivity
  rw [abs_toReal, overflowBound_eq]
  calc (x.mant : ℝ) * 2 ^ x.expo ≤ x.mant * 2 ^ (971 : ℤ) := by gcongr; norm_num
    _ < (2 ^ 53 - 1 / 2) * 2 ^ (971 : ℤ) := mul_lt_mul_of_pos_right (by linarith) hpos

theorem Rounds.between {v : ℝ} {r a b : F64} (h : Rounds v r) (ha : a.isFinite = true) (hb : b.isFinite = true)
    (hav : a.toReal ≤ v) (hvb : v ≤ b.toReal) : r.isFinite = true ∧ a.toReal ≤ r.toReal ∧ r.toReal ≤ b.toReal := by
  have hlt : |v| < overflowBound := by
    have h1 := abs_lt.mp (abs_toReal_lt_overflow ha)
    have h2 := abs_lt.mp (abs_toReal_lt_overflow hb)
    exact abs_lt.mpr ⟨by linarith, by linarith⟩
  obtain ⟨hfin, hnear⟩ := h.1 hlt
  refine ⟨hfin, ?_, ?_⟩
  · have hle := (hnear a ha).1
    rw [abs_of_nonpos (by linarith : a.toReal - v ≤ 0)] at hle
    linarith [neg_abs_le (r.toReal - v)]
  · have hle := (hnear b hb).1
    rw [abs_of_nonneg (by linarith : 0 ≤ b.toReal - v)] at hle
    linarith [le_abs_self (r.toReal - v)]

/-- An exact result within the magnitude of a finite value rounds to a finite value. -/
theorem Rounds.finite_of_abs_le {v : ℝ} {r b : F64} (h : Rounds v r) (hb : b.isFinite = true) (hv : |v| ≤ b.toReal) :
    r.isFinite = true := by
  have hv' := abs_le.mp hv
  exact (h.between ((neg_isFinite b).trans hb) hb (by rw [toReal_neg]; exact hv'.1) hv'.2).1

/-! ### The values of the constants -/

theorem toReal_zero : zero.toReal = 0 := toReal_of_isZero (by decide)

/-- The value of a constant from its three fields. -/
theorem toReal_of_fields {x : F64} {m : ℕ} {e : ℤ} (h : x.sign = false ∧ x.mant = m ∧ x.expo = e) :
    x.toReal = m * (2 : ℝ) ^ e := by
  obtain ⟨hs, hm, he⟩ := h
  rw [toReal_eq, hs, hm, he, signFactor]
  simp

theorem toReal_one : one.toReal = 1 := by
  rw [toReal_of_fields (m := 2 ^ 52) (e := -52) (by decide)]; norm_num

theorem toReal_two : two.toReal = 2 := by
  rw [toReal_of_fields (m := 2 ^ 52) (e := -51) (by decide)]; norm_num

theorem toReal_four : four.toReal = 4 := by
  rw [toReal_of_fields (m := 2 ^ 52) (e := -50) (by decide)]; norm_num

theorem toReal_two32 : two32.toReal = 2 ^ 32 := by
  rw [toReal_of_fields (m := 2 ^ 52) (e := -20) (by decide)]; norm_num

theorem toReal_threeQuarters : Machine.threeQuarters.toReal = 3 / 4 := by
  rw [toReal_of_fields (m := 3 * 2 ^ 51) (e := -53) (by decide)]; norm_num

theorem toReal_spsMax : params.spsMax.toReal = 128 := by
  rw [toReal_of_fields (m := 2 ^ 52) (e := -45) (by decide)]; norm_num

/-! ### Exact division by SPS_MAX away from the subnormal values -/

theorem toReal_pos_iff {x : F64} : 0 < x.toReal ↔ x.sign = false ∧ x.mant ≠ 0 := by
  have hpos : (0 : ℝ) < 2 ^ x.expo := by positivity
  rw [toReal_eq, mul_pos_iff_of_pos_right hpos]
  cases x.sign <;> simp [signFactor, Nat.pos_iff_ne_zero]

/-- The smallest positive value is 2^-1074. -/
theorem toReal_ge_of_pos {x : F64} (h : 0 < x.toReal) : (2 : ℝ) ^ (-1074 : ℤ) ≤ x.toReal := by
  obtain ⟨hs, hm⟩ := toReal_pos_iff.mp h
  have hm1 : (1 : ℝ) ≤ x.mant := by exact_mod_cast Nat.one_le_iff_ne_zero.mpr hm
  have he : (2 : ℝ) ^ (-1074 : ℤ) ≤ 2 ^ x.expo := zpow_le_zpow_right₀ (by norm_num) (expo_ge x)
  have hp : (0 : ℝ) < 2 ^ x.expo := by positivity
  calc (2 : ℝ) ^ (-1074 : ℤ) ≤ 1 * 2 ^ x.expo := by rwa [one_mul]
    _ ≤ x.mant * 2 ^ x.expo := by gcongr
    _ = x.toReal := (toReal_of_fields ⟨hs, rfl, rfl⟩).symm

/-- A positive finite value of exponent -1067 or more divides by 128 exactly. -/
theorem exists_toReal_div_128 {x : F64} (hx : x.isFinite = true) (hs : x.sign = false) (he : -1067 ≤ x.expo) :
    ∃ z : F64, z.isFinite = true ∧ z.toReal = x.toReal / 128 := by
  have hfield : x.expField < 2048 := Nat.mod_lt _ (by norm_num)
  have hmax : x.expField ≠ 2047 := by simpa [isFinite] using hx
  have hexp := expo_eq x
  have hnormal : 2 ^ 52 ≤ x.mant := by rw [mant, if_neg (by omega)]; omega
  have hm := mant_lt x
  obtain ⟨hfin, hval, -⟩ := pack_value false (x.expo - 7) x.mant (by omega) hm.le (.inr hnormal) (by omega)
  refine ⟨_, hfin, hval.trans ?_⟩
  rw [toReal_eq, hs, zpow_sub₀ two_ne_zero]
  norm_num
  ring

/-- FS / SPS_MAX, rounded: it is at least FS / 128 unless FS is so small that any positive value is FS / 2^70. -/
theorem le_div_spsMax {fs b : F64} (hfs : fs.isFinite = true) (hpos : 0 < fs.toReal) (hb : 0 < b.toReal)
    (hdiv : (fs.div params.spsMax).toReal ≤ b.toReal) : fs.toReal ≤ 2 ^ 70 * b.toReal := by
  obtain ⟨hs, -⟩ := toReal_pos_iff.mp hpos
  rcases le_or_gt (-1067) fs.expo with he | he
  · obtain ⟨z, hz, hzv⟩ := exists_toReal_div_128 hfs hs he
    have hr := rounds_div (y := params.spsMax) hfs (by decide) (by decide)
    rw [toReal_spsMax] at hr
    have hge := (hr.between hz hz hzv.le hzv.ge).2.1
    linarith
  · have hm : (fs.mant : ℝ) ≤ 2 ^ 53 := by exact_mod_cast (mant_lt fs).le
    have hsmall : (2 : ℝ) ^ fs.expo ≤ 2 ^ (-1068 : ℤ) := zpow_le_zpow_right₀ (by norm_num) (by omega)
    have hpow : (2 : ℝ) ^ (-1068 : ℤ) = 2 ^ 6 * 2 ^ (-1074 : ℤ) := by
      rw [← zpow_natCast, ← zpow_add₀ two_ne_zero]; norm_num
    calc fs.toReal = fs.mant * 2 ^ fs.expo := toReal_of_fields ⟨hs, rfl, rfl⟩
      _ ≤ 2 ^ 53 * (2 ^ 6 * 2 ^ (-1074 : ℤ)) := by rw [← hpow]; gcongr
      _ ≤ 2 ^ 53 * (2 ^ 6 * b.toReal) := by gcongr; exact toReal_ge_of_pos hb
      _ ≤ 2 ^ 70 * b.toReal := by nlinarith

end Sys2Proof.F64

namespace Sys2Proof.Machine

open F64

/-! ### The clamped settings (R371) -/

/-- What the clamps of APPLY leave of the active settings: finite reals, 0 < FB ≤ FS, FS at most 2^70 symbols' rates, and a
centre frequency from 0 to FS. -/
structure Active.Clamped (a : Active) : Prop where
  fs_finite : a.fs.isFinite = true
  fb_finite : a.fb.isFinite = true
  fc_finite : a.fc.isFinite = true
  lbw_finite : a.lbw.isFinite = true
  thr_finite : a.thr.isFinite = true
  fb_pos : 0 < a.fb.toReal
  fb_le : a.fb.toReal ≤ a.fs.toReal
  fs_le : a.fs.toReal ≤ 2 ^ 70 * a.fb.toReal
  fc_nonneg : 0 ≤ a.fc.toReal
  fc_le : a.fc.toReal ≤ a.fs.toReal

/-- A quotient of a value that is not negative by at least one stays between zero and the value. -/
theorem div_between {x y : F64} (hx : x.isFinite = true) (hx0 : 0 ≤ x.toReal) (hy : y.isFinite = true) (hy1 : 1 ≤ y.toReal) :
    (x.div y).isFinite = true ∧ 0 ≤ (x.div y).toReal ∧ (x.div y).toReal ≤ x.toReal := by
  have hz : y.isZero = false := by
    rw [← Bool.not_eq_true]
    intro h
    rw [toReal_of_isZero h] at hy1
    norm_num at hy1
  have h := (rounds_div hx hy hz).between (a := zero) (b := x) (by decide) hx
    (by rw [toReal_zero]; positivity) (div_le_self hx0 hy1)
  rwa [toReal_zero] at h

theorem clampFb_spec {fs fb : F64} (hfs : fs.isFinite = true) (hfb : fb.isFinite = true) (hfs0 : 0 < fs.toReal)
    (hfb0 : 0 < fb.toReal) :
    (clampFb fs fb).isFinite = true ∧ 0 < (clampFb fs fb).toReal ∧ (clampFb fs fb).toReal ≤ fs.toReal ∧
      fs.toReal ≤ 2 ^ 70 * (clampFb fs fb).toReal := by
  obtain ⟨hq, hq0, hqle⟩ := div_between (y := params.spsMax) hfs hfs0.le (by decide) (by rw [toReal_spsMax]; norm_num)
  have hmin := fmin_finite hfb hfs
  have hval : (clampFb fs fb).toReal = max (min fb.toReal fs.toReal) (fs.div params.spsMax).toReal := by
    rw [clampFb, toReal_fmax (isFinite_not_isNaN hmin) (isFinite_not_isNaN hq),
      toReal_fmin (isFinite_not_isNaN hfb) (isFinite_not_isNaN hfs)]
  have hpos : 0 < (clampFb fs fb).toReal := by rw [hval]; exact lt_max_of_lt_left (lt_min hfb0 hfs0)
  refine ⟨fmax_finite hmin hq, hpos, ?_, le_div_spsMax hfs hfs0 hpos ?_⟩
  · rw [hval]; exact max_le (min_le_right _ _) hqle
  · rw [hval]; exact le_max_right _ _

theorem clampFc_spec {fs fb fc : F64} (hfs : fs.isFinite = true) (hfb : fb.isFinite = true) (hfc : fc.isFinite = true)
    (hfb0 : 0 < fb.toReal) (hle : fb.toReal ≤ fs.toReal) :
    (clampFc fs fb fc).isFinite = true ∧ 0 ≤ (clampFc fs fb fc).toReal ∧ (clampFc fs fb fc).toReal ≤ fs.toReal := by
  have hfs0 : 0 ≤ fs.toReal := by linarith
  set lo := threeQuarters.mul fb with hlo
  set hi := (fs.div two).sub lo with hhi
  have hlo' : lo.isFinite = true ∧ 0 ≤ lo.toReal ∧ lo.toReal ≤ fs.toReal := by
    have hr := rounds_mul (x := threeQuarters) (by decide) hfb
    rw [toReal_threeQuarters] at hr
    have h := hr.between (a := zero) (b := fs) (by decide) hfs (by rw [toReal_zero]; linarith) (by linarith)
    rwa [toReal_zero] at h
  obtain ⟨hlof, hlo0, hlole⟩ := hlo'
  obtain ⟨hhf, hh0, hhle⟩ := div_between (y := two) hfs hfs0 (by decide) (by rw [toReal_two]; norm_num)
  obtain ⟨hhif, -, hhile⟩ := (rounds_sub hhf hlof).between ((neg_isFinite fs).trans hfs) hfs
    (by rw [toReal_neg]; linarith) (by linarith)
  rw [clampFc, ← hlo, ← hhi]
  split_ifs with hc
  · have hmax := fmax_finite hfc hlof
    rw [toReal_fmin (isFinite_not_isNaN hmax) (isFinite_not_isNaN hhif),
      toReal_fmax (isFinite_not_isNaN hfc) (isFinite_not_isNaN hlof)]
    exact ⟨fmin_finite hmax hhif, le_min (le_max_of_le_right hlo0) (hlo0.trans (toReal_le_of_le hc)), min_le_of_right_le hhile⟩
  · exact div_between hfs hfs0 (by decide) (by rw [toReal_four]; norm_num)

/-- Legal settings: every real is finite and the two rates are positive (R371). -/
theorem settingsLegal_iff {p : Settings} : settingsLegal p = true ↔
    (p.fs.isFinite = true ∧ p.fb.isFinite = true ∧ p.freqCenter.isFinite = true ∧ p.lockBw.isFinite = true ∧
      p.sigThresh.isFinite = true) ∧ F64.le p.fs zero = false ∧ F64.le p.fb zero = false := by
  simp [settingsLegal, and_assoc]

/-- A finite value that is not at most zero is positive. -/
theorem toReal_pos_of_not_le {x : F64} (hx : x.isFinite = true) (h : F64.le x zero = false) : 0 < x.toReal :=
  toReal_pos_of_lt (by rwa [le_zero_eq_not_lt hx, Bool.not_eq_false'] at h)

/-- The clamps of APPLY do what they are for (R371). -/
theorem activeOf_clamped {p : Settings} (c : BitVec 4) (h : settingsLegal p = true) : (activeOf p c).Clamped := by
  obtain ⟨⟨hfs, hfb, hfc, hlbw, hthr⟩, hfs0, hfb0⟩ := settingsLegal_iff.mp h
  obtain ⟨hb, hb0, hble, hbge⟩ := clampFb_spec hfs hfb (toReal_pos_of_not_le hfs hfs0) (toReal_pos_of_not_le hfb hfb0)
  obtain ⟨hc, hc0, hcle⟩ := clampFc_spec hfs hb hfc hb0 hble
  exact {
    fs_finite := hfs
    fb_finite := hb
    fc_finite := hc
    lbw_finite := fmin_finite (fmax_finite hlbw (by decide)) hfs
    thr_finite := fmax_finite hthr (by decide)
    fb_pos := hb0
    fb_le := hble
    fs_le := hbge
    fc_nonneg := hc0
    fc_le := hcle }

/-! ### The phase words of rebuild (R23, R372) -/

/-- A fraction of the sample rate has a phase word. -/
theorem phaseFaults_fraction {x fs : F64} (hx : x.isFinite = true) (hfs : fs.isFinite = true) (hfs0 : 0 < fs.toReal)
    (hx0 : 0 ≤ x.toReal) (hle : x.toReal ≤ fs.toReal) : phaseFaults (x.div fs) = false := by
  have hz : fs.isZero = false := by
    rw [← Bool.not_eq_true]
    exact fun h => hfs0.ne' (toReal_of_isZero h)
  obtain ⟨hq, hq0, hq1⟩ := (rounds_div hx hfs hz).between (a := zero) (b := one) (by decide) (by decide)
    (by rw [toReal_zero]; positivity) (by rw [toReal_one]; exact div_le_one_of_le₀ hle hfs0.le)
  rw [toReal_zero] at hq0
  rw [toReal_one] at hq1
  refine phaseFaults_eq_false_iff.mpr ⟨hq, ?_⟩
  refine (rounds_mul (y := two32) hq (by decide)).finite_of_abs_le (b := two32) (by decide) ?_
  rw [toReal_two32, abs_of_nonneg (by positivity)]
  linarith

/-- Settles O24: on clamped settings both rates are fractions of FS, and TIM_POINT is a constant. -/
theorem rebuildCannotFault : Obligations.RebuildCannotFault := by
  intro p c h a
  have ha : a.Clamped := activeOf_clamped c h
  have hfs0 := ha.fb_pos.trans_le ha.fb_le
  obtain ⟨hh, hh0, hhle⟩ := div_between (y := two) ha.fb_finite ha.fb_pos.le (by decide) (by rw [toReal_two]; norm_num)
  exact ⟨phaseFaults_fraction ha.fc_finite ha.fs_finite hfs0 ha.fc_nonneg ha.fc_le,
    phaseFaults_fraction hh ha.fs_finite hfs0 hh0 (hhle.trans ha.fb_le), by decide⟩

end Sys2Proof.Machine
end

section
/-! SUPPORT. The finiteness of the state part by part, and of everything rebuild writes (46_control.md R372; 60_exceptions.md
R412). -/

namespace Sys2Proof

namespace F64

/-! ### Powers of two as bounds -/

theorem exists_toReal_two_pow {k : ℕ} (hk : k ≤ 1000) : ∃ z : F64, z.isFinite = true ∧ z.toReal = 2 ^ k := by
  obtain ⟨hfin, hval, -⟩ := pack_value false ((k : ℤ) - 52) (2 ^ 52) (by omega) (by norm_num) (.inr le_rfl) (by omega)
  refine ⟨_, hfin, hval.trans ?_⟩
  rw [zpow_sub₀ two_ne_zero, signFactor, zpow_natCast]
  norm_num
  field_simp

theorem Rounds.abs_le_two_pow {v : ℝ} {r : F64} {k : ℕ} (h : Rounds v r) (hk : k ≤ 1000) (hv : |v| ≤ 2 ^ k) :
    r.isFinite = true ∧ |r.toReal| ≤ 2 ^ k := by
  obtain ⟨z, hz, hzv⟩ := exists_toReal_two_pow hk
  have hv' := abs_le.mp hv
  obtain ⟨hfin, h1, h2⟩ := h.between (a := z.neg) (b := z) ((neg_isFinite z).trans hz) hz
    (by rw [toReal_neg, hzv]; exact hv'.1) (by rw [hzv]; exact hv'.2)
  rw [toReal_neg, hzv] at h1
  exact ⟨hfin, abs_le.mpr ⟨h1, hzv ▸ h2⟩⟩

/-- A value between -1.0 and 1.0 in the ordering of R16. -/
theorem abs_toReal_le_one {x : F64} (h : le negOne x = true ∧ le x one = true) : |x.toReal| ≤ 1 := by
  have h1 := toReal_le_of_le h.1
  have h2 := toReal_le_of_le h.2
  rw [show negOne = one.neg by decide, toReal_neg, toReal_one] at h1
  rw [toReal_one] at h2
  exact abs_le.mpr ⟨h1, h2⟩

theorem isZero_of_one_le {x : F64} (h : 1 ≤ |x.toReal|) : x.isZero = false := by
  rw [← Bool.not_eq_true]
  intro hz
  rw [toReal_of_isZero hz] at h
  norm_num at h

/-! ### Values of positive sign that are not NaN -/

/-- An encoding of sign + up to infinity. -/
def Unsigned (x : F64) : Prop := ∃ b ≤ 2047 * 2 ^ 52, x = pack false b

theorem Unsigned.facts {x : F64} (h : x.Unsigned) : x.sign = false ∧ x.isNaN = false := by
  obtain ⟨b, hb, rfl⟩ := h
  refine ⟨pack_sign false b (by omega), ?_⟩
  rw [isNaN, pack_expField false b (by omega), pack_frac false b (by omega)]
  simp only [Bool.and_eq_false_iff, beq_eq_false_iff_ne, bne_eq_false_iff_eq]
  omega

theorem Unsigned.le_zero {x : F64} (h : x.Unsigned) : le zero x = true := by
  obtain ⟨hs, hn⟩ := h.facts
  refine le_iff.mpr ⟨by decide, hn, ?_⟩
  rw [show zero.key = 0 by decide, key, hs]
  simp

theorem roundPack_unsigned (m : ℕ) (e : ℤ) (st : Bool) : (roundPack false m e st).Unsigned := by
  have hclip (b : ℕ) : (if b < 2047 * 2 ^ 52 then b else 2047 * 2 ^ 52) ≤ 2047 * 2 ^ 52 := by
    split_ifs with h
    · exact h.le
    · exact le_rfl
  rw [roundPack]
  split
  · exact ⟨0, by norm_num, rfl⟩
  · exact ⟨_, hclip _, rfl⟩

theorem ofNat_unsigned (n : ℕ) : (ofNat n).Unsigned := by
  rw [ofNat, ofInt, show decide ((n : ℤ) < 0) = false by simp]
  exact roundPack_unsigned _ _ _

theorem one_div_unsigned {y : F64} (h : y.Unsigned) : (one.div y).Unsigned := by
  obtain ⟨hs, hn⟩ := h.facts
  have hone : one.isNaN = false ∧ one.isInf = false ∧ one.isZero = false ∧ one.sign = false := by decide
  obtain ⟨h1, h2, h3, h4⟩ := hone
  simp only [div, hn, hs, h1, h2, h3, h4, Bool.or_self, Bool.false_eq_true, if_false, bne_self_eq_false]
  split_ifs
  · exact ⟨0, by norm_num, rfl⟩
  · exact ⟨_, le_rfl, rfl⟩
  · exact roundPack_unsigned _ _ _

end F64

namespace Cplx

theorem isFinite_iff {z : Cplx} : z.isFinite = true ↔ z.re.isFinite = true ∧ z.im.isFinite = true := by
  simp [isFinite]

end Cplx

namespace Config

open F64

/-- `pow` stays in [0, 1] on the arguments the rules give it (R17, R204; log 6). -/
theorem pow_range {x y : F64} (hx : lt zero x = true) (hx1 : le x one = true) (hy : le zero y = true) :
    le zero (pow x y) = true ∧ le (pow x y) one = true := by
  rw [pow, hx, hx1, hy]
  exact within_spec (by decide)

end Config

namespace Machine

open F64

/-! ### The finiteness of the state, part by part (R19, R412) -/

/-- The coefficients of the datapath, which APPLY alone writes (R372). -/
def Datapath.coeffs (d : Datapath) : List F64 :=
  [d.sps, d.agc.alpha, d.res.a1, d.res.a2, d.res.g, d.btS.alpha, d.btL.alpha, d.ted.alpha, d.qgMse.alpha] ++ d.mf.taps

/-- The scalars of the datapath that commands and samples write, in the order of the commit check (R412). -/
def Datapath.scalars (d : Datapath) : List F64 :=
  [d.agc.m, d.btS.y, d.btL.y, d.acq.bt1, d.acq.bt2, d.freqEst, d.gate.carrier, d.res.s1, d.res.s2, d.ted.y, d.qgMse.y,
    d.gate.zpp.re, d.gate.zpp.im, d.ebno]

/-- The finiteness of a datapath, part by part. -/
structure Datapath.AllFinite (d : Datapath) : Prop where
  coeffs : ∀ x ∈ d.coeffs, x.isFinite = true
  scalars : ∀ x ∈ d.scalars, x.isFinite = true
  hr : ∀ x ∈ d.mf.hr, x.isFinite = true
  hi : ∀ x ∈ d.mf.hi, x.isFinite = true
  dlTim : ∀ x ∈ d.dlTim.buf, x.isFinite = true
  dlSym : ∀ z ∈ d.dlSym.buf, z.isFinite = true
  acqBuf : ∀ z ∈ d.acq.buf, z.isFinite = true
  frame : ∀ z ∈ d.cont.frame, z.isFinite = true
  mags : ∀ x ∈ d.cont.mags, x.isFinite = true

/-- The finiteness of a state, part by part. -/
structure State.AllFinite (s : State) : Prop where
  res0 : s.res0.isFinite = true
  res1 : s.res1.isFinite = true
  act : ∀ x ∈ s.act.reals, x.isFinite = true
  dp : s.dp.AllFinite

theorem cellReals_finite_iff {l : List Cplx} :
    (∀ x ∈ cellReals l, x.isFinite = true) ↔ ∀ z ∈ l, z.isFinite = true := by
  simp only [cellReals, List.mem_flatMap, Cplx.isFinite_iff]
  constructor
  · intro h z hz
    exact ⟨h _ ⟨z, hz, by simp⟩, h _ ⟨z, hz, by simp⟩⟩
  · rintro h x ⟨z, hz, hx⟩
    simp only [List.mem_cons, List.not_mem_nil, or_false] at hx
    rcases hx with rfl | rfl
    · exact (h z hz).1
    · exact (h z hz).2

theorem Datapath.allFinite_iff {d : Datapath} : (∀ x ∈ d.reals, x.isFinite = true) ↔ d.AllFinite := by
  have hsplit : (∀ x ∈ d.reals, x.isFinite = true) ↔
      (∀ x ∈ d.coeffs, x.isFinite = true) ∧ (∀ x ∈ d.scalars, x.isFinite = true) ∧
      (∀ x ∈ d.mf.hr, x.isFinite = true) ∧ (∀ x ∈ d.mf.hi, x.isFinite = true) ∧
      (∀ x ∈ d.dlTim.buf, x.isFinite = true) ∧ (∀ x ∈ cellReals d.dlSym.buf, x.isFinite = true) ∧
      (∀ x ∈ cellReals d.acq.buf, x.isFinite = true) ∧ (∀ x ∈ cellReals d.cont.frame, x.isFinite = true) ∧
      ∀ x ∈ d.cont.mags, x.isFinite = true := by
    simp only [Datapath.reals, Datapath.coeffs, Datapath.scalars, List.forall_mem_append, List.forall_mem_cons]
    tauto
  rw [hsplit, cellReals_finite_iff, cellReals_finite_iff, cellReals_finite_iff]
  exact ⟨fun ⟨h1, h2, h3, h4, h5, h6, h7, h8, h9⟩ => ⟨h1, h2, h3, h4, h5, h6, h7, h8, h9⟩,
    fun ⟨h1, h2, h3, h4, h5, h6, h7, h8, h9⟩ => ⟨h1, h2, h3, h4, h5, h6, h7, h8, h9⟩⟩

theorem State.allFinite_iff {s : State} : s.Finite ↔ s.AllFinite := by
  simp only [State.Finite, List.forall_mem_append, List.forall_mem_cons, List.not_mem_nil,
    IsEmpty.forall_iff, implies_true, and_true, Datapath.allFinite_iff]
  exact ⟨fun ⟨⟨⟨h0, h1⟩, ha⟩, hd⟩ => ⟨h0, h1, ha, hd⟩, fun ⟨h0, h1, ha, hd⟩ => ⟨⟨⟨h0, h1⟩, ha⟩, hd⟩⟩

/-- The finiteness of a state rests on its results, its active settings and its datapath alone. -/
theorem State.AllFinite.congr {s t : State} (h : s.AllFinite) (h0 : t.res0 = s.res0) (h1 : t.res1 = s.res1)
    (ha : t.act = s.act) (hd : t.dp = s.dp) : t.AllFinite :=
  ⟨h0 ▸ h.res0, h1 ▸ h.res1, ha ▸ h.act, hd ▸ h.dp⟩

/-! ### rebuild writes finite values on clamped settings (R372; log 13) -/

theorem Active.Clamped.reals_finite {a : Active} (h : a.Clamped) : ∀ x ∈ a.reals, x.isFinite = true := by
  simp [Active.reals, h.fs_finite, h.fb_finite, h.fc_finite, h.lbw_finite, h.thr_finite]

/-- SPS is finite and at least 1, and far from overflow (R45). -/
theorem Active.Clamped.sps_spec {a : Active} (h : a.Clamped) :
    (a.fs.div a.fb).isFinite = true ∧ 1 ≤ (a.fs.div a.fb).toReal ∧ |(a.fs.div a.fb).toReal| ≤ 2 ^ 70 := by
  have hz : a.fb.isZero = false := by
    rw [← Bool.not_eq_true]
    exact fun hz => h.fb_pos.ne' (toReal_of_isZero hz)
  have hr := rounds_div h.fs_finite h.fb_finite hz
  have hlo : 1 ≤ a.fs.toReal / a.fb.toReal := (one_le_div h.fb_pos).mpr h.fb_le
  have hhi : a.fs.toReal / a.fb.toReal ≤ 2 ^ 70 := (div_le_iff₀ h.fb_pos).mpr h.fs_le
  obtain ⟨z, hz, hzv⟩ := exists_toReal_two_pow (k := 70) (by norm_num)
  obtain ⟨hf, h1, h2⟩ := hr.between (a := one) (b := z) (by decide) hz (by rwa [toReal_one]) (by rwa [hzv])
  rw [toReal_one] at h1
  rw [hzv] at h2
  exact ⟨hf, h1, abs_le.mpr ⟨by linarith [h1], h2⟩⟩

/-- The taps are finite: a sine over at least one (R210). -/
theorem mfTaps_finite {sps : F64} (hf : sps.isFinite = true) (hlo : 1 ≤ sps.toReal) (hhi : |sps.toReal| ≤ 2 ^ 70) (n : ℕ) :
    ∀ x ∈ mfTaps sps n, x.isFinite = true := by
  have hsps := le_abs_self sps.toReal
  obtain ⟨z, hz, hzv⟩ := exists_toReal_two_pow (k := 71) (by norm_num)
  obtain ⟨hd, hd1, -⟩ := (rounds_mul (x := two) (by decide) hf).between (a := one) (b := z) (by decide) hz
    (by rw [toReal_one, toReal_two]; linarith) (by rw [toReal_two, hzv]; linarith)
  rw [toReal_one] at hd1
  have hd1' : 1 ≤ |(two.mul sps).toReal| := hd1.trans (le_abs_self _)
  intro x hx
  obtain ⟨i, -, rfl⟩ := List.mem_map.mp hx
  have hsin := abs_toReal_le_one (Config.sin_range (pi.mul (((ofNat i).add half).div (ofNat n))))
  refine (rounds_div (Config.sin_finite _) hd (isZero_of_one_le hd1')).finite_of_abs_le (b := one) (by decide) ?_
  rw [toReal_one, abs_div]
  exact div_le_one_of_le₀ (hsin.trans hd1') (abs_nonneg _)

/-- The weight of an envelope average is finite (R62). -/
theorem btAlpha_finite {syms sps : F64} (hf : sps.isFinite = true) (hhi : |sps.toReal| ≤ 2 ^ 70)
    (hs : syms.isFinite = true) (hs6 : |syms.toReal| ≤ 2 ^ 6) :
    (btAlpha syms sps).isFinite = true := by
  have hmul : |syms.toReal * sps.toReal| ≤ 2 ^ 76 := by
    rw [abs_mul]
    calc |syms.toReal| * |sps.toReal| ≤ 2 ^ 6 * 2 ^ 70 := by gcongr
      _ = 2 ^ 76 := by norm_num
  obtain ⟨hm, -⟩ := (rounds_mul hs hf).abs_le_two_pow (by norm_num) hmul
  have hone : one.isFinite = true := by decide
  refine (div_between hone (by rw [toReal_one]; norm_num) (fmax_finite hone hm) ?_).1
  rw [toReal_fmax (isFinite_not_isNaN hone) (isFinite_not_isNaN hm), toReal_one]
  exact le_max_left _ _

/-- The AGC's weight is 1 minus a value in [0, 1] (R204). -/
theorem agcAlpha_finite (fs : F64) : (agcAlpha fs).isFinite = true := by
  obtain ⟨h0, h1⟩ := Config.pow_range (x := ⟨0x3F847AE147AE147B⟩) (by decide) (by decide)
    (one_div_unsigned (ofNat_unsigned (lengthOf (params.agcT.mul fs)))).le_zero
  have hfin := isFinite_of_between (by decide) (by decide) h0 h1
  have hv0 := toReal_le_of_le h0
  have hv1 := toReal_le_of_le h1
  rw [toReal_zero] at hv0
  rw [toReal_one] at hv1
  refine (rounds_sub (x := one) (by decide) hfin).finite_of_abs_le (b := one) (by decide) ?_
  rw [toReal_one]
  exact abs_le.mpr ⟨by linarith, by linarith⟩

/-- The resonator's coefficients are finite (R215). -/
theorem resonatorOf_finite (fs fb : F64) :
    (resonatorOf fs fb).a1.isFinite = true ∧ (resonatorOf fs fb).a2.isFinite = true ∧
      (resonatorOf fs fb).g.isFinite = true := by
  refine ⟨?_, by show (params.resR.mul params.resR).isFinite = true; decide +kernel,
    by show (one.sub params.resR).isFinite = true; decide +kernel⟩
  have hc : (two.mul params.resR).isFinite = true ∧ (two.mul params.resR).sign = false := by decide +kernel
  have hcos := abs_toReal_le_one (Config.cos_range (twoPi.mul (fb.div fs)))
  have hpos : |(two.mul params.resR).toReal| = (two.mul params.resR).toReal := by
    rw [toReal_of_sign (two.mul params.resR), hc.2]; simp
  refine (rounds_mul hc.1 (Config.cos_finite (twoPi.mul (fb.div fs)))).finite_of_abs_le hc.1 ?_
  rw [abs_mul, ← hpos, abs_abs]
  exact mul_le_of_le_one_right (abs_nonneg _) hcos

theorem forall_mem_replicate {α : Type} {P : α → Prop} {n : ℕ} {a : α} (h : P a) : ∀ x ∈ List.replicate n a, P x :=
  fun _ hx => List.eq_of_mem_replicate hx ▸ h

/-- Every value that rebuild writes on clamped settings is finite (R372; log 13). -/
theorem rebuild_allFinite {a : Active} (h : a.Clamped) : (rebuild a).AllFinite := by
  obtain ⟨hf, hlo, hhi⟩ := h.sps_spec
  obtain ⟨ha1, ha2, hg⟩ := resonatorOf_finite a.fs a.fb
  have hzero : zero.isFinite = true := by decide
  have hbtS := btAlpha_finite hf hhi (syms := params.btSSyms) (by decide)
    (by rw [toReal_of_fields (m := 2 ^ 52) (e := -51) (by decide)]; norm_num)
  have hbtL := btAlpha_finite hf hhi (syms := params.btLSyms) (by decide)
    (by rw [toReal_of_fields (m := 2 ^ 52) (e := -47) (by decide)]; norm_num)
  have hconst : params.timAlpha.isFinite = true ∧ params.qgAlpha.isFinite = true ∧ params.agcM0.isFinite = true ∧
      params.qgMseNolock.isFinite = true := by decide
  obtain ⟨htim, hqg, hm0, hmse⟩ := hconst
  exact {
    coeffs := List.forall_mem_append.mpr
      ⟨by simp [rebuild, hf, agcAlpha_finite, ha1, ha2, hg, hbtS, hbtL, htim, hqg], mfTaps_finite hf hlo hhi _⟩
    scalars := by
      simp [Datapath.scalars, rebuild, burstOf, resonatorOf, gateOf, Cplx.zero, h.fc_finite, hzero, hm0, hmse]
    hr := forall_mem_replicate hzero
    hi := forall_mem_replicate hzero
    dlTim := forall_mem_replicate hzero
    dlSym := forall_mem_replicate (by decide)
    acqBuf := forall_mem_replicate (by decide)
    frame := forall_mem_replicate (by decide)
    mags := forall_mem_replicate hzero }

end Machine
end Sys2Proof
end

section
/-! SUPPORT. What a sample step stores, and that its commit check covers it (45_sample_pipeline.md R350; 60_exceptions.md
R412). -/

namespace Sys2Proof.Machine

open F64

/-! ### What a sample step does with the buffers

The commit check of R412 looks at the scalars, at both histories and at the cells a step stored (log 12). `State.cells` is the
rest of what finiteness speaks of; most stages of the sample step leave it as it is, and the others store one cell each. -/

/-- The results, the active settings, the coefficients and the buffers with their pointers. -/
structure Cells where
  res : Cplx
  act : Active
  coeffs : List F64
  dlSym : DelayLine Cplx
  dlTim : DelayLine F64
  acqBuf : List Cplx
  acqPtr : Nat
  frame : List Cplx
  framePtr : Nat
  mags : List F64

def State.cells (s : State) : Cells where
  res := ⟨s.res0, s.res1⟩
  act := s.act
  coeffs := s.dp.coeffs
  dlSym := s.dp.dlSym
  dlTim := s.dp.dlTim
  acqBuf := s.dp.acq.buf
  acqPtr := s.dp.acq.ptr
  frame := s.dp.cont.frame
  framePtr := s.dp.cont.ptr
  mags := s.dp.cont.mags

/-- A computation answered through a function, taken apart. -/
theorem map_ok {α β : Type} {x : Res α} {f : α → β} {b : β} (h : x.map f = .ok b) : ∃ a, x = .ok a ∧ f a = b := by
  cases x with
  | error c => cases h
  | ok a => exact ⟨a, rfl, Except.ok.inj h⟩

/-! ### Events, lock, loss and the gate -/

@[simp] theorem State.push_cells (s : State) (e : Event) : (s.push e).cells = s.cells := by
  simp [State.cells]

@[simp] theorem State.sbPush_cells (s : State) (x : BitVec 16) : (s.sbPush x).cells = s.cells := by
  simp only [State.sbPush]
  split
  · exact State.push_cells _ _
  · rfl

@[simp] theorem State.lockOn_cells (s : State) (burst : Bool) : (s.lockOn burst).cells = s.cells := by
  cases burst <;> exact (State.sbPush_cells _ _).trans (State.push_cells _ _)

theorem State.retune_cells {s t : State} {hz : F64} (h : s.retune hz = .ok t) : t.cells = s.cells := by
  obtain ⟨o, -, rfl⟩ := map_ok h
  rfl

theorem State.lost_cells {s t : State} (h : s.lost = .ok t) : t.cells = s.cells :=
  (State.retune_cells h).trans (State.push_cells _ _)

theorem State.gateStep_cells {s t : State} (h : s.gateStep = .ok t) : t.cells = s.cells := by
  unfold State.gateStep at h
  split at h
  · cases h; rfl
  · cases h; split <;> rfl
  · split at h
    · cases h; rfl
    · dsimp only at h
      split at h
      · exact (State.lost_cells h :)
      · cases h; rfl

@[simp] theorem State.stageCount_cells (s : State) : s.stageCount.cells = s.cells := by
  simp only [State.stageCount, State.qualityReport]
  split
  · exact State.push_cells _ _
  · rfl

/-! ### The symbol instant -/

theorem State.carrierUpdate_cells {s t : State} {zc zd : Cplx} (h : s.carrierUpdate zc zd = .ok t) : t.cells = s.cells := by
  obtain ⟨o, -, h⟩ := bind_ok h
  obtain ⟨o', -, h⟩ := bind_ok h
  cases h; rfl

@[simp] theorem State.decodeSymbol_cells (s : State) (zc zd : Cplx) : (s.decodeSymbol zc zd).cells = s.cells := by
  simp only [State.decodeSymbol]
  split
  · rfl
  · exact (State.sbPush_cells _ _).trans (State.sbPush_cells _ _)

@[simp] theorem State.contLock_cells (s : State) : s.contLock.cells = s.cells := by
  unfold State.contLock
  split
  · exact State.lockOn_cells s false
  · rfl

theorem State.stageSymbol_cells {s t : State} {zc zd : Cplx} (h : s.stageSymbol zc zd = .ok t) : t.cells = s.cells := by
  obtain ⟨s1, h1, rfl⟩ := map_ok h
  have hs1 := State.carrierUpdate_cells h1
  exact (State.contLock_cells _).trans ((State.decodeSymbol_cells _ zc zd).trans hs1)

/-! ### The tracking stages: each delay line takes one value -/

theorem State.stageDelay_cells (s : State) (y : Cplx) :
    (s.stageDelay y).2.cells = { s.cells with dlSym := s.cells.dlSym.push y } := rfl

theorem State.stageResonator_cells (s : State) (y : Cplx) :
    ∃ r, (s.stageResonator y).2.cells = { s.cells with dlTim := s.cells.dlTim.push r } := ⟨_, rfl⟩

theorem State.stageTiming_cells {s : State} {t : Bool × State} (h : s.stageTiming = .ok t) : t.2.cells = s.cells := by
  obtain ⟨o, -, rfl⟩ := map_ok h
  rfl

theorem State.trackSample_cells {s : State} {xm : Cplx} {tr : (Cplx × Cplx) × (Bool × State)}
    (h : s.trackSample xm = .ok tr) :
    ∃ y r, tr.2.2.cells = { s.cells with dlSym := s.cells.dlSym.push y, dlTim := s.cells.dlTim.push r } := by
  unfold State.trackSample at h
  obtain ⟨t, ht, rfl⟩ := map_ok h
  set c := s.stageCarrier xm with hc
  set f := c.2.stageFilter c.1 with hf
  have hfc : f.2.cells = s.cells := rfl
  obtain ⟨r, hr⟩ := (f.2.stageDelay f.1).2.stageResonator_cells f.1
  have htim := State.stageTiming_cells ht
  refine ⟨f.1, r, htim.trans (hr.trans ?_)⟩
  rw [State.stageDelay_cells, hfc]

/-! ### Acquisition: one stored cell -/

/-- What acquisition can do to the buffers of a state: move the pointer of the acquisition buffer, or store one cell before
it; or collect one sample of a frame, and at its end smooth the magnitudes and begin the next (R246, R260, R264). -/
inductive Cells.Acquired (c : Cells) : Cells → Prop
  | idle (p : Nat) : Acquired c { c with acqPtr := p }
  | stored (p : Nat) (x : Cplx) : Acquired c { c with acqBuf := c.acqBuf.set p x, acqPtr := p + 1 }
  | collected (x : Cplx) : Acquired c { c with frame := c.frame.set c.framePtr x, framePtr := c.framePtr + 1 }
  | framed (x : Cplx) (m : List F64) (hc : c.act.modeCont = true) :
      Acquired c { c with frame := c.frame.set c.framePtr x, framePtr := 0, mags := m }

theorem State.acceptActions_cells {s t : State} {lo hi : Int} {hzb : F64} {b : Cplx}
    (h : s.acceptActions lo hi hzb b = .ok t) : t.cells = s.cells := by
  unfold State.acceptActions at h
  obtain ⟨s1, h1, h⟩ := bind_ok h
  obtain ⟨p, -, h⟩ := bind_ok h
  obtain rfl := Except.ok.inj h
  have hlocked (u : State) : ({ u with dp.acq.st := .locked } : State).cells = u.cells := rfl
  rw [hlocked, State.lockOn_cells, State.push_cells]
  exact (State.retune_cells h1 :)

theorem State.verify_cells {s t : State} (h : s.verify = .ok t) : t.cells = s.cells := by
  unfold State.verify State.verifyWith at h
  dsimp only at h
  split at h
  · cases h
  · split at h
    · split at h
      · cases h
      · split at h
        · exact State.acceptActions_cells h
        · cases h; rfl
    · cases h; rfl

/-- The fill step stores one cell where the pointer is, or none (R246). -/
theorem State.fillStep_cells {s t : State} {xm : Cplx} (h : s.fillStep xm = .ok t) :
    t.cells = s.cells ∨ t.cells = { s.cells with
      acqBuf := s.cells.acqBuf.set s.cells.acqPtr xm, acqPtr := s.cells.acqPtr + 1 } := by
  unfold State.fillStep at h
  dsimp only at h
  split at h
  · right
    split at h
    · exact (State.verify_cells h :)
    · cases h; rfl
  · left
    cases h; rfl

/-- The detector moves the pointer alone (R242, R243). -/
theorem Burst.detect_buf (b : Burst) (bt : F64) : (b.detect bt).buf = b.buf := by
  simp only [Burst.detect]
  split <;> rfl

theorem State.burstStep_cells {s t : State} {xm : Cplx} (h : s.burstStep xm = .ok t) : s.cells.Acquired t.cells := by
  have hdet : ({ (s.envelope xm).2 with dp.acq := (s.envelope xm).2.dp.acq.detect (s.envelope xm).1 } : State).cells =
      { s.cells with acqPtr := ((s.envelope xm).2.dp.acq.detect (s.envelope xm).1).ptr } := by
    simp only [State.cells, Burst.detect_buf]
    rfl
  rcases State.fillStep_cells h with hfill | hfill <;> rw [hfill, hdet]
  · exact .idle _
  · exact .stored _ xm

/-- The end of a frame writes the magnitudes alone (R261 to R268). -/
theorem State.contFrame_cells (s : State) : ∃ m, s.contFrame.cells = { s.cells with mags := m } :=
  ⟨_, State.push_cells _ _⟩

theorem State.contStep_cells (s : State) (xm : Cplx) (hc : s.act.modeCont = true) :
    s.cells.Acquired (s.contStep xm).cells := by
  simp only [State.contStep]
  split
  · obtain ⟨m, hm⟩ := State.contFrame_cells { s with
      dp.cont.frame := s.dp.cont.frame.set s.dp.cont.ptr xm, dp.cont.ptr := s.dp.cont.ptr + 1 }
    have hend (u : State) : ({ u with dp.cont.ptr := 0 } : State).cells = { u.cells with framePtr := 0 } := rfl
    rw [hend, hm]
    exact .framed xm m hc
  · exact .collected xm

theorem State.acquire_cells {s t : State} {xm : Cplx} (h : s.acquire xm = .ok t) : s.cells.Acquired t.cells := by
  unfold State.acquire at h
  split at h
  · obtain rfl := Except.ok.inj h
    exact State.contStep_cells s xm ‹_›
  · exact State.burstStep_cells h

/-! ### The whole sample step -/

theorem State.stageAgc_cells (s : State) (z : Cplx) : (s.stageAgc z).2.cells = s.cells := rfl

theorem State.stageMix_cells (s : State) (ya : Cplx) : (s.stageMix ya).2.cells = s.cells := rfl

/-- A sample step that goes through: acquisition, then one push on each delay line (R350). -/
theorem State.sampleCore_cells {s t : State} {i q : Int} (h : s.sampleCore i q = .ok t) :
    ∃ c y r, s.cells.Acquired c ∧ t.cells = { c with dlSym := c.dlSym.push y, dlTim := c.dlTim.push r } := by
  obtain ⟨s3, tr, s10, s11, h3, htr, h10, h11, rfl⟩ := State.sampleCore_ok h
  obtain ⟨y, r, hyr⟩ := State.trackSample_cells htr
  have hs10 : s10.cells = tr.2.2.cells := by
    split at h10
    · exact State.stageSymbol_cells h10
    · rw [Except.ok.inj h10]
  have hacq := State.acquire_cells h3
  rw [State.stageMix_cells, State.stageAgc_cells] at hacq
  refine ⟨s3.cells, y, r, hacq, ?_⟩
  rw [State.stageCount_cells, State.gateStep_cells h11, hs10, hyr]

/-! ### The commit check covers what a sample stores (R412; log 12) -/

/-- A list with one cell stored has a property of its old cells that the stored cell has too. -/
theorem forall_mem_set {α : Type} {P : α → Prop} {l : List α} {i : ℕ} {x d : α} (hl : ∀ y ∈ l, P y)
    (hx : P ((l.set i x).getD i d)) : ∀ y ∈ l.set i x, P y := by
  intro y hy
  rcases lt_or_ge i l.length with hi | hi
  · rcases List.mem_or_eq_of_mem_set hy with h | rfl
    · exact hl y h
    · simpa [List.getD_eq_getElem?_getD, hi] using hx
  · rw [List.set_eq_of_length_le hi] at hy
    exact hl y hy

/-- The finiteness of the buffers and of the rest of the cells. -/
structure Cells.AllFinite (c : Cells) : Prop where
  res : c.res.isFinite = true
  act : ∀ x ∈ c.act.reals, x.isFinite = true
  coeffs : ∀ x ∈ c.coeffs, x.isFinite = true
  dlSym : ∀ z ∈ c.dlSym.buf, z.isFinite = true
  dlTim : ∀ x ∈ c.dlTim.buf, x.isFinite = true
  acqBuf : ∀ z ∈ c.acqBuf, z.isFinite = true
  frame : ∀ z ∈ c.frame, z.isFinite = true
  mags : ∀ x ∈ c.mags, x.isFinite = true

/-- A state is finite where its cells, its scalars and its histories are. -/
theorem State.allFinite_iff_cells {s : State} : s.AllFinite ↔ s.cells.AllFinite ∧
    (∀ x ∈ s.dp.scalars, x.isFinite = true) ∧ (∀ x ∈ s.dp.mf.hr, x.isFinite = true) ∧ ∀ x ∈ s.dp.mf.hi, x.isFinite = true := by
  constructor
  · intro h
    exact ⟨⟨Cplx.isFinite_iff.mpr ⟨h.res0, h.res1⟩, h.act, h.dp.coeffs, h.dp.dlSym, h.dp.dlTim, h.dp.acqBuf, h.dp.frame,
      h.dp.mags⟩, h.dp.scalars, h.dp.hr, h.dp.hi⟩
  · rintro ⟨hc, hs, hr, hi⟩
    obtain ⟨h0, h1⟩ := Cplx.isFinite_iff.mp hc.res
    exact ⟨h0, h1, hc.act, ⟨hc.coeffs, hs, hr, hi, hc.dlTim, hc.dlSym, hc.acqBuf, hc.frame, hc.mags⟩⟩

/-- What the commit check of a sample says of the state the sample would leave. -/
theorem sampleWrites_finite_iff {modeCont : Bool} {old new : Datapath} :
    (sampleWrites modeCont old new).all F64.isFinite = true ↔
      (∀ x ∈ new.scalars, x.isFinite = true) ∧ (∀ x ∈ new.mf.hr, x.isFinite = true) ∧ (∀ x ∈ new.mf.hi, x.isFinite = true) ∧
      (new.dlSym.buf.getD old.dlSym.ptr Cplx.zero).isFinite = true ∧ (new.dlTim.buf.getD old.dlTim.ptr zero).isFinite = true ∧
      (new.acq.buf.getD (new.acq.ptr - 1) Cplx.zero).isFinite = true ∧
      (new.cont.frame.getD old.cont.ptr Cplx.zero).isFinite = true ∧
      (modeCont = true ∧ new.cont.ptr = 0 → ∀ x ∈ new.cont.mags, x.isFinite = true) := by
  have hif : (∀ x ∈ (if modeCont = true ∧ new.cont.ptr = 0 then new.cont.mags else []), x.isFinite = true) ↔
      (modeCont = true ∧ new.cont.ptr = 0 → ∀ x ∈ new.cont.mags, x.isFinite = true) := by
    split_ifs with h
    · exact ⟨fun hm _ => hm, fun hm => hm h⟩
    · exact ⟨fun _ hc => absurd hc h, fun _ x hx => absurd hx List.not_mem_nil⟩
  rw [List.all_eq_true, ← hif]
  simp only [sampleWrites, Datapath.scalars, List.forall_mem_append, Cplx.isFinite_iff]
  simp only [List.forall_mem_cons, List.not_mem_nil, IsEmpty.forall_iff, implies_true, and_true, and_assoc]

/-- Acquisition keeps the cells finite where the cell it stored and, at a frame's end, the magnitudes are. -/
theorem Cells.Acquired.allFinite {c c' : Cells} (h : c.Acquired c') (hc : c.AllFinite)
    (ha : (c'.acqBuf.getD (c'.acqPtr - 1) Cplx.zero).isFinite = true)
    (hf : (c'.frame.getD c.framePtr Cplx.zero).isFinite = true)
    (hm : c.act.modeCont = true ∧ c'.framePtr = 0 → ∀ x ∈ c'.mags, x.isFinite = true) : c'.AllFinite := by
  cases h with
  | idle p => exact { hc with }
  | stored p x => exact { hc with acqBuf := forall_mem_set hc.acqBuf ha }
  | collected x => exact { hc with frame := forall_mem_set hc.frame hf }
  | framed x m hmode => exact { hc with frame := forall_mem_set hc.frame hf, mags := hm ⟨hmode, rfl⟩ }

/-- Acquisition leaves both delay lines. -/
theorem Cells.Acquired.delayLines {c c' : Cells} (h : c.Acquired c') : c'.dlSym = c.dlSym ∧ c'.dlTim = c.dlTim := by
  cases h <;> exact ⟨rfl, rfl⟩

/-- A sample step that passes the commit check leaves every value finite (R412). -/
theorem State.sampleCore_allFinite {s t : State} {i q : Int} (hs : s.AllFinite) (h : s.sampleCore i q = .ok t)
    (hw : (sampleWrites s.act.modeCont s.dp t.dp).all F64.isFinite = true) : t.AllFinite := by
  obtain ⟨hscal, hhr, hhi, hsym, htim, hacq, hframe, hmags⟩ := sampleWrites_finite_iff.mp hw
  obtain ⟨c, y, r, hc, ht⟩ := State.sampleCore_cells h
  obtain ⟨hdlSym, hdlTim⟩ := hc.delayLines
  have hcells (f : Cells → Prop) (hf : f t.cells) : f { c with dlSym := c.dlSym.push y, dlTim := c.dlTim.push r } := ht ▸ hf
  have hcf : c.AllFinite := hc.allFinite (State.allFinite_iff_cells.mp hs).1
    (hcells (fun c => (c.acqBuf.getD (c.acqPtr - 1) Cplx.zero).isFinite = true) hacq)
    (hcells (fun c => (c.frame.getD s.dp.cont.ptr Cplx.zero).isFinite = true) hframe)
    (hcells (fun c => s.act.modeCont = true ∧ c.framePtr = 0 → ∀ x ∈ c.mags, x.isFinite = true) hmags)
  have hsymc := hcells (fun c => (c.dlSym.buf.getD s.dp.dlSym.ptr Cplx.zero).isFinite = true) hsym
  have htimc := hcells (fun c => (c.dlTim.buf.getD s.dp.dlTim.ptr zero).isFinite = true) htim
  refine State.allFinite_iff_cells.mpr ⟨?_, hscal, hhr, hhi⟩
  rw [ht]
  rw [show s.dp.dlSym.ptr = c.dlSym.ptr by rw [hdlSym]; rfl] at hsymc
  rw [show s.dp.dlTim.ptr = c.dlTim.ptr by rw [hdlTim]; rfl] at htimc
  exact { hcf with dlSym := forall_mem_set hcf.dlSym hsymc, dlTim := forall_mem_set hcf.dlTim htimc }

end Sys2Proof.Machine
end

section
/-! SUPPORT. Every command, every sample and every access keeps the state finite (60_exceptions.md R412): statement O56. -/

namespace Sys2Proof.Machine

open F64

/-! ### Faults and host accesses write no binary64 value of the block (R401, R403) -/

theorem raiseFault_allFinite {s : State} (hs : s.AllFinite) (c : FaultCode) (info : Word) :
    (raiseFault c info s).AllFinite := hs.congr (by simp) (by simp) (by simp) (by simp)

/-- An oscillator holds no binary64 value (R57). -/
theorem setOsc_allFinite {s : State} (hs : s.AllFinite) (k : OscId) (o : Osc) : (s.setOsc k o).AllFinite := by
  cases k <;> exact { hs with dp := { hs.dp with } }

/-- The registers a host writes hold no value that finiteness speaks of (R42, R412). -/
theorem writeReg_allFinite {s : State} (hs : s.AllFinite) (r : Reg) (v : Word) : (writeReg s r v).AllFinite := by
  cases r with
  | oscPhase k => exact setOsc_allFinite hs k _
  | oscFtw k => exact setOsc_allFinite hs k _
  | oscPoint k => exact setOsc_allFinite hs k _
  | _ => exact hs.congr rfl rfl rfl rfl

/-! ### The commands (R116, R412) -/

/-- A command keeps the state finite if its new state is finite wherever the values it declares as written are. -/
theorem runCommand_allFinite {w : Word} {args : List F64} {s : State} {body : Res (State × List F64)} (hs : s.AllFinite)
    (hbody : ∀ t written, body = .ok (t, written) → (∀ x ∈ args, x.isFinite = true) → (∀ x ∈ written, x.isFinite = true) →
      t.AllFinite) : (runCommand w args s body).AllFinite := by
  rcases runCommand_cases w args s body with ⟨-, h⟩ | ⟨-, -, h⟩ | ⟨-, -, c, -, h⟩ | ⟨-, -, t, wr, -, -, h⟩ | ⟨-, ha, t, wr, hb, hw, h⟩ <;>
    rw [h]
  · exact hs
  · exact raiseFault_allFinite hs _ _
  · exact raiseFault_allFinite hs _ _
  · exact raiseFault_allFinite hs _ _
  · exact hbody t wr hb (List.all_eq_true.mp ha) (List.all_eq_true.mp hw)

/-- A command whose computation cannot fault. -/
theorem runCommand_ok_allFinite {w : Word} {args written : List F64} {s t : State} (hs : s.AllFinite)
    (ht : (∀ x ∈ args, x.isFinite = true) → (∀ x ∈ written, x.isFinite = true) → t.AllFinite) :
    (runCommand w args s (.ok (t, written))).AllFinite :=
  runCommand_allFinite hs fun u wr h ha hw => by
    obtain ⟨rfl, rfl⟩ := Prod.mk.inj (Except.ok.inj h)
    exact ht ha hw

/-- A command that computes an oscillator. -/
theorem oscCommand_allFinite {w : Word} {args : List F64} {s : State} {k : OscId} {r : Res Osc} (hs : s.AllFinite) :
    (runCommand w args s (r.map fun o => (s.setOsc k o, []))).AllFinite :=
  runCommand_allFinite hs fun t wr h _ _ => by
    obtain ⟨o, -, ho⟩ := map_ok h
    obtain ⟨rfl, -⟩ := Prod.mk.inj ho
    exact setOsc_allFinite hs k o

section Commands

variable {s : State} (hs : s.AllFinite)

include hs

theorem ncoValue_allFinite (k : OscId) : (ncoValue k s).AllFinite :=
  runCommand_ok_allFinite hs fun _ _ =>
    { hs with res0 := (cis_finite (s.osc k).phase).1, res1 := (cis_finite (s.osc k).phase).2 }

theorem ncoAdvance_allFinite (k : OscId) : (ncoAdvance k s).AllFinite :=
  runCommand_ok_allFinite hs fun _ _ => setOsc_allFinite hs k _

theorem ncoPassed_allFinite (k : OscId) : (ncoPassed k s).AllFinite :=
  runCommand_ok_allFinite hs fun _ hw => { setOsc_allFinite hs k _ with res0 := hw _ (List.mem_singleton_self _) }

theorem dlPushTim_allFinite : (dlPushTim s).AllFinite := by
  refine runCommand_ok_allFinite hs fun _ hw => ?_
  simp only [List.forall_mem_cons] at hw
  obtain ⟨harg, hout, -⟩ := hw
  exact { hs with
    res0 := hout
    dp := { hs.dp with dlTim := fun x hx => (List.mem_or_eq_of_mem_set hx).elim (hs.dp.dlTim x) fun h => h ▸ harg } }

theorem dlPushSym_allFinite : (dlPushSym s).AllFinite := by
  refine runCommand_ok_allFinite hs fun _ hw => ?_
  simp only [List.forall_mem_cons] at hw
  obtain ⟨hre, him, hout, hout', -⟩ := hw
  exact { hs with
    res0 := hout
    res1 := hout'
    dp := { hs.dp with dlSym := fun z hz => (List.mem_or_eq_of_mem_set hz).elim (hs.dp.dlSym z) fun h =>
      h ▸ Cplx.isFinite_iff.mpr ⟨hre, him⟩ } }

theorem mfPush_allFinite : (mfPush s).AllFinite := by
  refine runCommand_ok_allFinite hs fun _ hw => ?_
  simp only [List.forall_mem_append, List.forall_mem_cons] at hw
  obtain ⟨⟨hhr, hhi⟩, hre, him, -⟩ := hw
  exact { hs with res0 := hre, res1 := him, dp := { hs.dp with hr := hhr, hi := hhi } }

theorem emaPush_allFinite (k : EmaId) : (emaPush k s).AllFinite := by
  refine runCommand_ok_allFinite hs fun _ hw => ?_
  have hy := hw _ (List.mem_singleton_self _)
  have hscal := hs.dp.scalars
  simp only [Datapath.scalars, List.forall_mem_cons] at hscal
  have hdp : (s.setEma k ((s.ema k).push s.arg0)).dp.AllFinite := by
    cases k <;> refine { hs.dp with scalars := ?_ } <;>
      simp_all [Datapath.scalars, State.setEma]
  exact { hs with res0 := hy, res1 := by simpa using hs.res1, act := by simpa using hs.act, dp := hdp }

theorem resPush_allFinite : (resPush s).AllFinite := by
  refine runCommand_ok_allFinite hs fun _ hw => ?_
  simp only [List.forall_mem_cons] at hw
  obtain ⟨hs1, hs2, -⟩ := hw
  have hscal := hs.dp.scalars
  simp only [Datapath.scalars, List.forall_mem_cons] at hscal
  exact { hs with
    res0 := hs1
    dp := { hs.dp with scalars := by simp_all [Datapath.scalars, State.setRes0] } }

theorem agcPush_allFinite : (agcPush s).AllFinite := by
  refine runCommand_ok_allFinite hs fun _ hw => ?_
  simp only [List.forall_mem_cons] at hw
  obtain ⟨hm, hre, him, -⟩ := hw
  have hscal := hs.dp.scalars
  simp only [Datapath.scalars, List.forall_mem_cons] at hscal
  exact { hs with
    res0 := hre
    res1 := him
    dp := { hs.dp with scalars := by simp_all [Datapath.scalars, State.setRes] } }

theorem sbQuant_allFinite : (sbQuant s).AllFinite :=
  runCommand_ok_allFinite hs fun _ hw => { hs with res0 := hw _ (List.mem_singleton_self _) }

theorem qgSlice_allFinite : (qgSlice s).AllFinite := by
  refine runCommand_ok_allFinite hs fun _ hw => ?_
  simp only [List.forall_mem_cons] at hw
  obtain ⟨hre, him, -⟩ := hw
  exact { hs with res0 := hre, res1 := him }

/-- APPLY: the clamped settings and what rebuild makes of them (R371, R372). -/
theorem apply_allFinite : ∃ t, execApply s = .next t ∧ t.AllFinite := by
  refine ⟨_, rfl, runCommand_allFinite hs fun t wr h _ _ => ?_⟩
  split at h
  case isFalse => cases h
  case isTrue hlegal =>
    obtain ⟨rfl, -⟩ := Prod.mk.inj (Except.ok.inj h)
    have hclamped := activeOf_clamped s.ctrl hlegal
    have happ : s.applied.AllFinite :=
      { hs with act := hclamped.reals_finite, dp := rebuild_allFinite hclamped }
    unfold State.applyEvent
    split
    · exact happ.congr (by simp) (by simp) (by simp) (by simp)
    · exact happ

omit hs in
/-- RESET: the default settings, clamped, and what rebuild makes of them (R450). -/
theorem reset_allFinite : (resetAction s).AllFinite := by
  have hclamped : (activeOf defaultSettings 0).Clamped := activeOf_clamped 0 (by decide)
  have hzero : zero.isFinite = true := by decide
  exact { res0 := hzero, res1 := hzero, act := hclamped.reals_finite, dp := rebuild_allFinite hclamped }

theorem runSample_allFinite (i q : Int) : (runSample i q s).AllFinite := by
  rcases runSample_cases i q s with ⟨-, h⟩ | ⟨-, -, h⟩ | ⟨-, -, c, -, h⟩ | ⟨-, -, t, -, -, h⟩ | ⟨-, -, t, ht, hw, h⟩ <;> rw [h]
  · exact hs
  · exact hs.congr rfl rfl rfl rfl
  · exact raiseFault_allFinite hs _ _
  · exact raiseFault_allFinite hs _ _
  · exact State.sampleCore_allFinite hs ht hw

/-- Every instruction keeps the state finite. -/
theorem exec_allFinite (i : Instr) : ∃ t, exec i s = .next t ∧ t.AllFinite := by
  cases i with
  | nop => exact ⟨_, rfl, runCommand_ok_allFinite hs fun _ _ => hs⟩
  | apply => exact apply_allFinite hs
  | reset => exact ⟨_, rfl, reset_allFinite⟩
  | evFlush => exact ⟨_, rfl, runCommand_ok_allFinite hs fun _ _ => hs.congr rfl rfl rfl rfl⟩
  | ncoSetfreqMix | ncoSetfreqTim | ncoSetfreqCar | ncoSetphaseMix | ncoSetphaseTim | ncoSetphaseCar | ncoAdvfracMix
  | ncoAdvfracTim | ncoAdvfracCar | ncoSetpointMix | ncoSetpointTim | ncoSetpointCar =>
    exact ⟨_, rfl, oscCommand_allFinite hs⟩
  | ncoValueMix | ncoValueTim | ncoValueCar => exact ⟨_, rfl, ncoValue_allFinite hs _⟩
  | ncoAdvanceMix | ncoAdvanceTim | ncoAdvanceCar => exact ⟨_, rfl, ncoAdvance_allFinite hs _⟩
  | ncoPassedMix | ncoPassedTim | ncoPassedCar => exact ⟨_, rfl, ncoPassed_allFinite hs _⟩
  | dlPushDlTim => exact ⟨_, rfl, dlPushTim_allFinite hs⟩
  | dlPushDlSym => exact ⟨_, rfl, dlPushSym_allFinite hs⟩
  | mfPush => exact ⟨_, rfl, mfPush_allFinite hs⟩
  | emaPushBtS | emaPushBtL | emaPushQgMse | emaPushTed => exact ⟨_, rfl, emaPush_allFinite hs _⟩
  | resPush => exact ⟨_, rfl, resPush_allFinite hs⟩
  | agcPush => exact ⟨_, rfl, agcPush_allFinite hs⟩
  | sbQuant => exact ⟨_, rfl, sbQuant_allFinite hs⟩
  | qgSlice => exact ⟨_, rfl, qgSlice_allFinite hs⟩
  | sample i q => exact ⟨_, rfl, runSample_allFinite hs i q⟩

/-! ### The host's accesses (R83, R377) -/

theorem runWord_allFinite (p : Port) (w : Word) : ∃ t, runWord p w s = .next t ∧ t.AllFinite := by
  unfold runWord
  split
  · exact exec_allFinite hs _
  · exact ⟨_, rfl, raiseFault_allFinite hs _ _⟩

theorem writeWord_allFinite (off : Nat) (v : Word) : ∃ t, writeWord off v s = .next t ∧ t.AllFinite := by
  rcases writeWord_cases off v s with ⟨-, h⟩ | ⟨-, h⟩ | ⟨r, -, -, -, h⟩ | ⟨-, h⟩ <;> rw [h]
  · exact runWord_allFinite hs _ v
  · exact runWord_allFinite hs _ v
  · exact ⟨_, rfl, writeReg_allFinite hs r v⟩
  · exact ⟨_, rfl, hs⟩

theorem takeAccess_allFinite (a : Access) : ∃ t, takeAccess a s = .next t ∧ t.AllFinite := by
  rcases takeAccess_cases a s with ⟨-, -, h⟩ | ⟨-, -, h⟩ | ⟨-, -, h⟩ | ⟨-, -, v, -, h⟩ <;> rw [h]
  · exact ⟨_, rfl, hs.congr rfl rfl rfl rfl⟩
  · exact ⟨_, rfl, (raiseFault_allFinite hs _ _).congr rfl rfl rfl rfl⟩
  · exact ⟨_, rfl, hs.congr rfl rfl rfl rfl⟩
  · exact writeWord_allFinite hs _ v

end Commands

/-- Settles O56: the step takes no access, one outside the window, or one that keeps every part finite. -/
theorem finitenessIsKept : Obligations.FinitenessIsKept := by
  intro s t hs hstep
  have hfin := State.allFinite_iff.mp hs
  refine State.allFinite_iff.mpr ?_
  cases hp : s.bus.pending with
  | nil =>
    rw [step_idle hp] at hstep
    exact Host.Outcome.next.inj hstep ▸ hfin
  | cons a rest =>
    rcases lt_or_ge a.off 0x1000 with ho | ho
    · have htaken : (s.takeAccess rest).AllFinite := hfin.congr rfl rfl rfl rfl
      obtain ⟨u, hu, hufin⟩ := takeAccess_allFinite htaken a
      rw [step_access hp ho, hu] at hstep
      exact Host.Outcome.next.inj hstep ▸ hufin
    · rw [step_outside hp ho] at hstep
      cases hstep

end Sys2Proof.Machine
end

section
/-! SUPPORT. Everything one instruction and one step can do, said once (00_scope.md R10; 30_encoding.md R113 to R116; 60_exceptions.md
R401 to R405): later proofs take a step apart by these cases. -/

namespace Sys2Proof.Machine

-- One theorem at a time: elaborated side by side, they ask for more threads than the memory limit allows.
set_option Elab.async false

open F64

/-! ### Everything an instruction can do (R116, R350, R370 to R376) -/

/-- What the oscillator, filter, quantizer and slicer commands write: their unit and the results (R34, R150, R191, R196, R207,
R212, R217). -/
inductive State.Commanded (s : State) : State → Prop
  | osc (k : OscId) (o : Osc) : Commanded s (s.setOsc k o)
  | passed (k : OscId) (o : Osc) (x : F64) : Commanded s ((s.setOsc k o).setRes0 x)
  | result (x : F64) : Commanded s (s.setRes0 x)
  | results (z : Cplx) : Commanded s (s.setRes z)
  | dlTim (x y : F64) : Commanded s ({ s with dp.dlTim := s.dp.dlTim.push x }.setRes0 y)
  | dlSym (x y : Cplx) : Commanded s ({ s with dp.dlSym := s.dp.dlSym.push x }.setRes y)
  | mf (x y : Cplx) : Commanded s ({ s with dp.mf := s.dp.mf.push s.dp.nmf x }.setRes y)
  | ema (k : EmaId) (x y : F64) : Commanded s ((s.setEma k ((s.ema k).push x)).setRes0 y)
  | res (x y : F64) : Commanded s ({ s with dp.res := s.dp.res.push x }.setRes0 y)
  | agc (x y : Cplx) : Commanded s ({ s with dp.agc := s.dp.agc.push x }.setRes y)

/-- Everything an instruction can leave of a state. -/
inductive State.Executed (s : State) : Instr → State → Prop
  | kept (i : Instr) : Executed s i s
  | faulted (i : Instr) (c : FaultCode) (info : Word) : Executed s i (raiseFault c info s)
  | applied : Executed s .apply (s.applyEvent s.applied)
  | reset : Executed s .reset (resetAction s)
  | flushed : Executed s .evFlush { s with fifo := [] }.clearSticky
  | commanded (i : Instr) {t : State} (h : s.Commanded t) : Executed s i t
  | overrun (i q : Int) : Executed s (.sample i q) { s with ovr := true }
  | sampled (i q : Int) {t : State} (hb : s.backPressure = false) (h : s.sampleCore i q = .ok t) : Executed s (.sample i q) t

/-- A command is refused, faults, or leaves the state it computes. -/
theorem runCommand_executed {w : Word} {args : List F64} {s : State} {body : Res (State × List F64)} {i : Instr}
    (h : ∀ t written, body = .ok (t, written) → s.Executed i t) : s.Executed i (runCommand w args s body) := by
  rcases runCommand_cases w args s body with ⟨-, e⟩ | ⟨-, -, e⟩ | ⟨-, -, c, -, e⟩ | ⟨-, -, t, wr, -, -, e⟩ | ⟨-, -, t, wr, hb, -, e⟩ <;>
    rw [e]
  · exact .kept i
  · exact .faulted i _ _
  · exact .faulted i _ _
  · exact .faulted i _ _
  · exact h t wr hb

/-- A command whose computation cannot fault. -/
theorem runCommand_ok_executed {w : Word} {args written : List F64} {s t : State} {i : Instr} (h : s.Executed i t) :
    s.Executed i (runCommand w args s (.ok (t, written))) :=
  runCommand_executed fun u wr hu => by
    obtain ⟨rfl, -⟩ := Prod.mk.inj (Except.ok.inj hu)
    exact h

/-- A command that computes an oscillator. -/
theorem oscCommand_executed {w : Word} {args : List F64} {s : State} {k : OscId} {r : Res Osc} (i : Instr) :
    s.Executed i (runCommand w args s (r.map fun o => (s.setOsc k o, []))) :=
  runCommand_executed fun u wr hu => by
    obtain ⟨o, -, ho⟩ := map_ok hu
    obtain ⟨rfl, -⟩ := Prod.mk.inj ho
    exact .commanded i (.osc k o)

theorem execApply_executed (s : State) : ∃ t, execApply s = .next t ∧ s.Executed .apply t :=
  ⟨_, rfl, runCommand_executed fun u wr hu => by
    split at hu
    · obtain ⟨rfl, -⟩ := Prod.mk.inj (Except.ok.inj hu)
      exact .applied
    · cases hu⟩

theorem runSample_executed (i q : Int) (s : State) : s.Executed (.sample i q) (runSample i q s) := by
  rcases runSample_cases i q s with ⟨-, e⟩ | ⟨-, -, e⟩ | ⟨-, -, c, -, e⟩ | ⟨-, -, t, -, -, e⟩ | ⟨-, hb, t, ht, -, e⟩ <;> rw [e]
  · exact .kept _
  · exact .overrun i q
  · exact .faulted _ _ _
  · exact .faulted _ _ _
  · exact .sampled i q hb ht

/-- Every instruction leaves one of these states (R116, R401). -/
theorem exec_executed (i : Instr) (s : State) : ∃ t, exec i s = .next t ∧ s.Executed i t := by
  cases i with
  | nop => exact ⟨_, rfl, runCommand_ok_executed (.kept _)⟩
  | apply => exact execApply_executed s
  | reset => exact ⟨_, rfl, .reset⟩
  | evFlush => exact ⟨_, rfl, runCommand_ok_executed .flushed⟩
  | ncoSetfreqMix | ncoSetfreqTim | ncoSetfreqCar | ncoSetphaseMix | ncoSetphaseTim | ncoSetphaseCar | ncoAdvfracMix
  | ncoAdvfracTim | ncoAdvfracCar | ncoSetpointMix | ncoSetpointTim | ncoSetpointCar =>
    exact ⟨_, rfl, oscCommand_executed _⟩
  | ncoValueMix | ncoValueTim | ncoValueCar | qgSlice => exact ⟨_, rfl, runCommand_ok_executed (.commanded _ (.results _))⟩
  | ncoAdvanceMix | ncoAdvanceTim | ncoAdvanceCar => exact ⟨_, rfl, runCommand_ok_executed (.commanded _ (.osc _ _))⟩
  | ncoPassedMix | ncoPassedTim | ncoPassedCar => exact ⟨_, rfl, runCommand_ok_executed (.commanded _ (.passed _ _ _))⟩
  | dlPushDlTim => exact ⟨_, rfl, runCommand_ok_executed (.commanded _ (.dlTim _ _))⟩
  | dlPushDlSym => exact ⟨_, rfl, runCommand_ok_executed (.commanded _ (.dlSym _ _))⟩
  | mfPush => exact ⟨_, rfl, runCommand_ok_executed (.commanded _ (.mf _ _))⟩
  | emaPushBtS | emaPushBtL | emaPushQgMse | emaPushTed =>
    exact ⟨_, rfl, runCommand_ok_executed (.commanded _ (.ema _ _ _))⟩
  | resPush => exact ⟨_, rfl, runCommand_ok_executed (.commanded _ (.res _ _))⟩
  | agcPush => exact ⟨_, rfl, runCommand_ok_executed (.commanded _ (.agc _ _))⟩
  | sbQuant => exact ⟨_, rfl, runCommand_ok_executed (.commanded _ (.result _))⟩
  | sample i q => exact ⟨_, rfl, runSample_executed i q s⟩

/-! ### Everything a step can do (R10, R83, R85, R377, R404, R405) -/

/-- Everything the access `a`, taken by a block in the state `s`, can leave of it. -/
inductive State.Accessed (s : State) (a : Access) : State → Prop
  | responded (r : Option Word) : Accessed s a (s.respond r)
  | busFault (r : Option Word) : Accessed s a ((raiseFault .bus (BitVec.ofNat 32 a.off) s).respond r)
  | ignored : Accessed s a s
  | illegal (w : Word) : Accessed s a (raiseFault .illegalCmd w s)
  | wrote (r : Reg) (v : Word) : Accessed s a (writeReg s r v)
  | ran (p : Port) (w : Word) (i : Instr) {t : State} (ha : a = Access.ofWord p w) (hd : decode p w = .ok i)
      (h : s.Executed i t) : Accessed s a t

/-- A register's offset and its name are an entry of the map (R33). -/
theorem mem_regMap_of_regAt {off : Nat} {r : Reg} (h : regAt off = some r) : (off, r) ∈ regMap := by
  obtain ⟨p, hp, rfl⟩ := Option.map_eq_some_iff.mp h
  have hoff : p.1 = off := by simpa using List.find?_some hp
  exact hoff ▸ List.mem_of_find?_eq_some hp

/-- The registers whose write runs an instruction stand at one offset each (R33, R110). -/
theorem offset_of_regAt_port {off : Nat} :
    (regAt off = some .cmd → off = portOffset .cmd) ∧ (regAt off = some .sampleIn → off = portOffset .sampleIn) := by
  have hcmd : ∀ p ∈ regMap, p.2 = .cmd → p.1 = portOffset .cmd := by decide +kernel
  have hsmp : ∀ p ∈ regMap, p.2 = .sampleIn → p.1 = portOffset .sampleIn := by decide +kernel
  exact ⟨fun h => hcmd _ (mem_regMap_of_regAt h) rfl, fun h => hsmp _ (mem_regMap_of_regAt h) rfl⟩

/-- An aligned write of a port's register is the write of a word to the port (R83, R111). -/
theorem eq_ofWord {a : Access} {p : Port} {v : Word} (hal : a.aligned32 = true) (hk : a.kind = .write v)
    (ho : a.off = portOffset p) : a = Access.ofWord p v := by
  obtain ⟨kind, width, off⟩ := a
  simp only [Access.aligned32, Bool.and_eq_true, beq_iff_eq] at hal
  dsimp only at hk ho
  rw [hk, ho, hal.1]
  rfl

theorem runWord_accessed {s : State} {a : Access} {p : Port} {w : Word} (ha : a = Access.ofWord p w) :
    ∃ t, runWord p w s = .next t ∧ s.Accessed a t := by
  unfold runWord
  split
  · obtain ⟨t, ht, h⟩ := exec_executed ‹_› s
    exact ⟨t, ht, .ran p w _ ha ‹_› h⟩
  · exact ⟨_, rfl, .illegal w⟩

theorem takeAccess_accessed (a : Access) (s : State) : ∃ t, takeAccess a s = .next t ∧ s.Accessed a t := by
  rcases takeAccess_cases a s with ⟨-, -, e⟩ | ⟨-, -, e⟩ | ⟨-, -, e⟩ | ⟨hal, -, v, hk, e⟩ <;> rw [e]
  · exact ⟨_, rfl, .responded _⟩
  · exact ⟨_, rfl, .busFault _⟩
  · exact ⟨_, rfl, .responded _⟩
  · rcases writeWord_cases a.off v s with ⟨hr, e⟩ | ⟨hr, e⟩ | ⟨r, -, -, -, e⟩ | ⟨-, e⟩ <;> rw [e]
    · exact runWord_accessed (eq_ofWord hal hk (offset_of_regAt_port.1 hr))
    · exact runWord_accessed (eq_ofWord hal hk (offset_of_regAt_port.2 hr))
    · exact ⟨_, rfl, .wrote r v⟩
    · exact ⟨_, rfl, .ignored⟩

/-- Everything a step that answers a next state can do: nothing, or the oldest pending access. -/
theorem step_accessed {s t : State} (h : step s = .next t) :
    t = s ∨ ∃ a rest, s.bus.pending = a :: rest ∧ (s.takeAccess rest).Accessed a t := by
  cases hp : s.bus.pending with
  | nil =>
    rw [step_idle hp] at h
    exact .inl (Host.Outcome.next.inj h).symm
  | cons a rest =>
    rcases lt_or_ge a.off 0x1000 with ho | ho
    · obtain ⟨u, hu, hacc⟩ := takeAccess_accessed a (s.takeAccess rest)
      rw [step_access hp ho, hu] at h
      exact .inr ⟨a, rest, rfl, Host.Outcome.next.inj h ▸ hacc⟩
    · rw [step_outside hp ho] at h
      cases h

/-! ### An invariant of the step, from its parts -/

/-- What an invariant of the block has to show: it is blind to the bus, and kept by faults, by writes of registers and by every
instruction. -/
structure KeptByParts (P : State → Prop) : Prop where
  bus : ∀ (s : State) (b : Bus), P s → P { s with bus := b }
  fault : ∀ (s : State) (c : FaultCode) (info : Word), P s → P (raiseFault c info s)
  write : ∀ (s : State) (r : Reg) (v : Word), P s → P (writeReg s r v)
  exec : ∀ (s t : State) (i : Instr), P s → s.Executed i t → P t

/-- Such an invariant is kept by every step. -/
theorem KeptByParts.step {P : State → Prop} (k : KeptByParts P) {s t : State} (hs : P s) (h : step s = .next t) : P t := by
  rcases step_accessed h with rfl | ⟨a, rest, -, hacc⟩
  · exact hs
  · have htaken : P (s.takeAccess rest) := k.bus s _ hs
    cases hacc with
    | responded r => exact k.bus _ _ htaken
    | busFault r => exact k.bus _ _ (k.fault _ _ _ htaken)
    | ignored => exact htaken
    | illegal w => exact k.fault _ _ _ htaken
    | wrote r v => exact k.write _ r v htaken
    | ran p w i ha hd h => exact k.exec _ _ i htaken h

/-! ### One word for each command (R114) -/

/-- A command word that decodes is the encoding of what it decodes to. -/
theorem decodeCmd_eq_encodeWord {w : Word} {i : Instr} (h : decodeCmd w = .ok i) : w = encodeWord i := by
  unfold decodeCmd at h
  split_ifs at h with hz ho
  split at h
  case h_2 => cases h
  case h_1 r hr =>
    have hrows : ∀ r ∈ cmdRows, encodeWord r.instr = cmdWord r.op r.unit := by decide
    have hsel := List.find?_some hr
    simp only [Bool.and_eq_true, beq_iff_eq] at hsel
    obtain ⟨hop, hunit⟩ := hsel
    rw [← Except.ok.inj h, hrows r (List.mem_of_find?_eq_some hr), hop, hunit]
    have hw := w.isLt
    simp only [fieldZ, ne_eq, not_not] at hz
    apply BitVec.eq_of_toNat_eq
    simp only [cmdWord, fieldOp, fieldUnit, BitVec.toNat_ofNat]
    omega

/-- Only SAMPLE decodes from SAMPLE_IN; a word that decodes to a command was written to CMD and is its encoding (R111). -/
theorem ofWord_of_command {p : Port} {w : Word} {i : Instr} (hi : encodePort i = .cmd) (hd : decode p w = .ok i) :
    Access.ofWord p w = write32 0x010 (encodeWord i) := by
  cases p with
  | sampleIn =>
    rw [← Except.ok.inj hd] at hi
    cases hi
  | cmd => rw [← decodeCmd_eq_encodeWord hd]; rfl

end Sys2Proof.Machine
end

section
/-! SUPPORT. What each stage of the sample step can leave, one lemma per stage (44_quality_softbits.md R325 to R340;
42_acquisition.md R246 to R268; 45_sample_pipeline.md R350). -/

namespace Sys2Proof.Machine

-- One theorem at a time: elaborated side by side, they ask for more threads than the memory limit allows.
set_option Elab.async false

open F64

/-! ### Events and the gate (R67, R252, R325 to R329) -/

/-- A push commutes with what a later update makes of the datapath. -/
theorem State.push_mapDp (s : State) (e : Event) (f : Datapath → Datapath) :
    { s.push e with dp := f (s.push e).dp } = { s with dp := f s.dp }.push e := by
  unfold State.push
  split <;> rfl

theorem State.retune_ok {s t : State} {hz : F64} (h : s.retune hz = .ok t) :
    ∃ w, t = { s with dp.mix.ftw := w, dp.gate.carrier := hz } := by
  obtain ⟨o, ho, rfl⟩ := map_ok h
  rcases s.dp.mix.setFrequency_cases hz s.act.fs with e | ⟨-, -, -, -, e⟩ <;> rw [e] at ho
  · cases ho
  · exact ⟨_, by rw [← Except.ok.inj ho]⟩

/-- The lost signal: NoSignal, its event, and the MSE, the mixer and the carrier put back (R328). -/
theorem State.lost_ok {s t : State} (h : s.lost = .ok t) :
    ∃ w, t = { s with dp.gate.st := .noSig, dp.gate.carrier := s.act.fc, dp.qgMse.y := params.qgMseNolock, dp.mix.ftw := w }.push
      (.sigAbsent s.sampleIndex false) := by
  obtain ⟨w, rfl⟩ := State.retune_ok h
  exact ⟨w, State.push_mapDp { s with dp.gate.st := .noSig } _
    fun d => { d with gate.carrier := s.act.fc, qgMse.y := params.qgMseNolock, mix.ftw := w }⟩

/-- The gate step in each gate state: the delay, the countdown, or the loss (R326 to R328). -/
theorem State.gateStep_ok {s t : State} (h : s.gateStep = .ok t) :
    t = s ∨
    (s.dp.gate.st = .acq ∧ ∃ n st, st ≠ .noSig ∧ t = { s with dp.gate.acqEl := n, dp.gate.st := st }) ∨
    (s.dp.gate.st = .lock ∧ ∃ c, t = { s with dp.gate.cd := c }) ∨
    (s.dp.gate.st = .lock ∧ ∃ c, { s with dp.gate.cd := c }.lost = .ok t) := by
  unfold State.gateStep at h
  split at h
  case h_1 => exact .inl (Except.ok.inj h).symm
  case h_2 hst =>
    refine .inr (.inl ⟨hst, ?_⟩)
    dsimp only at h
    split at h <;> rw [← Except.ok.inj h]
    · exact ⟨_, .lock, by decide, rfl⟩
    · exact ⟨_, .acq, by decide, by rw [← hst]⟩
  case h_3 hst =>
    refine .inr (.inr ?_)
    dsimp only at h
    split_ifs at h
    · exact .inl ⟨hst, _, (Except.ok.inj h).symm⟩
    · exact .inr ⟨hst, _, h⟩
    · exact .inl ⟨hst, _, (Except.ok.inj h).symm⟩

/-- The counters, and the quality report where one is due (R331, R350). -/
theorem State.stageCount_cases (s : State) :
    s.stageCount = s.countSample ∨ ∃ e, s.stageCount = { s.countSample with dp.ebno := e }.push (.quality s.dp.qgMse.y e) := by
  unfold State.stageCount State.qualityReport
  split
  · exact .inr ⟨_, rfl⟩
  · exact .inl rfl

/-! ### The symbol instant (R294, R300 to R303, R324, R335) -/

@[simp] theorem Osc.advance_point (o : Osc) : o.advance.point = o.point := o.fwd_point _
@[simp] theorem Osc.advance_ftw (o : Osc) : o.advance.ftw = o.ftw := o.fwd_ftw _
@[simp] theorem Osc.advance_phase (o : Osc) : o.advance.phase = o.phase + o.ftw := o.fwd_phase _

theorem Osc.advanceFraction_ok {o o' : Osc} {x : F64} (h : o.advanceFraction x = .ok o') : ∃ d, o' = o.nudge d := by
  obtain ⟨d, -, rfl⟩ := map_ok h
  exact ⟨d, rfl⟩

/-- The carrier update moves CAR and leaves its point (R301 to R303). -/
theorem State.carrierUpdate_ok {s t : State} {zc zd : Cplx} (h : s.carrierUpdate zc zd = .ok t) :
    ∃ o : Osc, o.point = s.dp.car.point ∧ t = { s with dp.car := o } := by
  obtain ⟨o, ho, h⟩ := bind_ok h
  obtain ⟨o', ho', ht⟩ := bind_ok h
  obtain ⟨d, rfl⟩ := Osc.advanceFraction_ok ho
  refine ⟨o', ?_, (Except.ok.inj ht).symm⟩
  unfold Osc.frequencyTerm at ho'
  split at ho'
  · obtain ⟨w, -, rfl⟩ := map_ok ho'
    exact Osc.nudge_point _ d
  · rw [← Except.ok.inj ho']
    exact Osc.nudge_point _ d

/-- A soft element is a byte (R336). -/
theorem quant_le (free : BitVec 8) (v : F64) : (quant free v).toNat ≤ 255 := by
  have hbyte (b : BitVec 8) : (b.zeroExtend 16).toNat ≤ 255 := by
    have := b.isLt
    rw [BitVec.zeroExtend, BitVec.toNat_setWidth]
    omega
  simp only [quant]
  split_ifs
  · decide
  · decide
  · exact hbyte free
  · exact hbyte _

/-- The decoder takes the sample, and pushes two bytes while a signal is held (R335, R340). -/
theorem State.decodeSymbol_cases (s : State) (zc zd : Cplx) :
    s.decodeSymbol zc zd = { s with dp.gate.zpp := zc } ∨
    (s.dp.gate.st ≠ .noSig ∧ ∃ x y : BitVec 16, x.toNat ≤ 255 ∧ y.toNat ≤ 255 ∧
      s.decodeSymbol zc zd = ({ s with dp.gate.zpp := zc }.sbPush x).sbPush y) := by
  simp only [State.decodeSymbol]
  split
  · exact .inl rfl
  · exact .inr ⟨‹_›, _, _, quant_le _ _, quant_le _ _, rfl⟩

/-- Only a block that holds no signal locks (R324). -/
theorem State.contLock_cases (s : State) : s.contLock = s ∨ (s.dp.gate.st = .noSig ∧ s.contLock = s.lockOn false) := by
  unfold State.contLock
  split
  case isTrue h =>
    simp only [Bool.and_eq_true, beq_iff_eq] at h
    exact .inr ⟨h.1.2, rfl⟩
  case isFalse => exact .inl rfl

/-- A symbol instant, taken apart: CAR and the MSE, then the decoder, the counters and the lock (R350). -/
theorem State.stageSymbol_ok {s t : State} {zc zd : Cplx} (h : s.stageSymbol zc zd = .ok t) :
    ∃ (o : Osc) (m : F64), o.point = s.dp.car.point ∧
      t = (({ s with dp.car := o, dp.qgMse.y := m }.decodeSymbol zc zd).countSymbol).contLock := by
  obtain ⟨s1, h1, rfl⟩ := map_ok h
  obtain ⟨o, ho, rfl⟩ := State.carrierUpdate_ok h1
  exact ⟨o, _, ho, rfl⟩

theorem State.stageFilter_eq (s : State) (x : Cplx) :
    ∃ y, s.stageFilter x = (y, { s with dp.mf := s.dp.mf.push s.dp.nmf x }) := ⟨_, rfl⟩

theorem State.stageResonator_eq (s : State) (y : Cplx) :
    ∃ sd u r, s.stageResonator y = (sd, { s with dp.res := s.dp.res.push u, dp.dlTim := s.dp.dlTim.push r }) := ⟨_, _, _, rfl⟩

theorem State.stageTed_eq (s : State) (sd : F64) : ∃ e, s.stageTed sd = { s with dp.ted := s.dp.ted.push e } := ⟨_, rfl⟩

theorem State.stageTiming_ok {s : State} {r : Bool × State} (h : s.stageTiming = .ok r) :
    ∃ d, r.2 = { s with dp.tim := (s.dp.tim.advance.nudge d).consumeLatch } := by
  obtain ⟨o, ho, rfl⟩ := map_ok h
  obtain ⟨d, rfl⟩ := Osc.advanceFraction_ok ho
  exact ⟨d, rfl⟩

/-- The tracking stages: each unit takes one value, and the pass of TIM is consumed (R211, R290 to R294, R301). -/
theorem State.trackSample_ok {s : State} {xm : Cplx} {tr : (Cplx × Cplx) × (Bool × State)} (h : s.trackSample xm = .ok tr) :
    ∃ (x y : Cplx) (u r e : F64) (d : Word), tr.2.2 = { s with
      dp.car := s.dp.car.advance
      dp.mf := s.dp.mf.push s.dp.nmf x
      dp.dlSym := s.dp.dlSym.push y
      dp.res := s.dp.res.push u
      dp.dlTim := s.dp.dlTim.push r
      dp.ted := s.dp.ted.push e
      dp.tim := (s.dp.tim.advance.nudge d).consumeLatch } := by
  obtain ⟨x, hc⟩ : ∃ x, s.stageCarrier xm = (x, { s with dp.car := s.dp.car.advance }) := ⟨_, rfl⟩
  obtain ⟨y, hf⟩ := State.stageFilter_eq { s with dp.car := s.dp.car.advance } x
  obtain ⟨sd, u, r, hr⟩ := State.stageResonator_eq { s with
    dp.car := s.dp.car.advance, dp.mf := s.dp.mf.push s.dp.nmf x, dp.dlSym := s.dp.dlSym.push y } y
  obtain ⟨e, he⟩ := State.stageTed_eq { s with
    dp.car := s.dp.car.advance, dp.mf := s.dp.mf.push s.dp.nmf x, dp.dlSym := s.dp.dlSym.push y
    dp.res := s.dp.res.push u, dp.dlTim := s.dp.dlTim.push r } sd
  simp only [State.trackSample, hc, hf, State.stageDelay] at h
  obtain ⟨t, ht, rfl⟩ := map_ok h
  rw [hr, he] at ht
  obtain ⟨d, hd⟩ := State.stageTiming_ok ht
  exact ⟨x, y, u, r, e, d, hd⟩

/-! ### Acquisition (R240 to R268) -/

/-- An acceptance tunes MIX, takes the phase of CAR, pushes CARRIER_FREQ and locks (R252). -/
theorem State.acceptActions_ok {s t : State} {lo hi : Int} {hzb : F64} {b : Cplx} (h : s.acceptActions lo hi hzb b = .ok t) :
    ∃ (w p : Word) (f : F64), t = { (({ s with
      dp.mix.ftw := w, dp.gate.carrier := f, dp.car.phase := p, dp.car.armed := true }).push (.carrierFreq f)).lockOn true with
      dp.acq.st := .locked } := by
  unfold State.acceptActions at h
  obtain ⟨s1, h1, h⟩ := bind_ok h
  obtain ⟨p, -, h⟩ := bind_ok h
  obtain ⟨w, rfl⟩ := State.retune_ok h1
  exact ⟨w, p, _, (Except.ok.inj h).symm⟩

/-- Verification rejects, or accepts where no signal is held (R249, R250). -/
theorem State.verify_ok {s t : State} (h : s.verify = .ok t) :
    t = { s with dp.acq.st := .rejected } ∨
    (s.dp.gate.st = .noSig ∧ ∃ lo hi hzb b, s.acceptActions lo hi hzb b = .ok t) := by
  unfold State.verify State.verifyWith at h
  dsimp only at h
  split at h
  · cases h
  split at h
  case h_2 => exact .inl (Except.ok.inj h).symm
  split at h
  · cases h
  split at h
  case isFalse => exact .inl (Except.ok.inj h).symm
  case isTrue hacc =>
    simp only [State.accepts, Bool.and_eq_true, beq_iff_eq] at hacc
    exact .inr ⟨hacc.1.2, _, _, _, _, h⟩

/-- A fill stores the sample, and verifies when the buffer is full (R246). -/
theorem State.fillStep_ok {s t : State} {xm : Cplx} (h : s.fillStep xm = .ok t) :
    (s.dp.acq.st ≠ .filling ∧ t = s) ∨
    (s.dp.acq.st = .filling ∧ s.dp.acq.ptr + 1 ≠ s.dp.acq.lb + s.dp.acq.lt ∧
      t = { s with dp.acq.buf := s.dp.acq.buf.set s.dp.acq.ptr xm, dp.acq.ptr := s.dp.acq.ptr + 1 }) ∨
    (s.dp.acq.st = .filling ∧ s.dp.acq.ptr + 1 = s.dp.acq.lb + s.dp.acq.lt ∧
      { s with dp.acq.buf := s.dp.acq.buf.set s.dp.acq.ptr xm, dp.acq.ptr := s.dp.acq.ptr + 1,
               dp.acq.st := .verifying }.verify = .ok t) := by
  unfold State.fillStep at h
  dsimp only at h
  split_ifs at h with hst hfull
  · exact .inr (.inr ⟨hst, hfull, h⟩)
  · exact .inr (.inl ⟨hst, hfull, (Except.ok.inj h).symm⟩)
  · exact .inl ⟨hst, (Except.ok.inj h).symm⟩

/-- Burst acquisition: both averages and the detector move on, then the fill step (R240 to R242). -/
theorem State.burstStep_ok {s t : State} {xm : Cplx} (h : s.burstStep xm = .ok t) :
    ∃ ys yl bt, ({ s with dp.btS.y := ys, dp.btL.y := yl, dp.acq := s.dp.acq.detect bt } : State).fillStep xm = .ok t :=
  ⟨_, _, _, h⟩

/-- A sample of the continuous estimator: collected, or the end of a frame with its event (R260 to R268). -/
theorem State.contStep_cases (s : State) (xm : Cplx) :
    (s.dp.cont.ptr + 1 ≠ s.dp.cont.nc ∧ s.contStep xm = { s with
      dp.cont.frame := s.dp.cont.frame.set s.dp.cont.ptr xm, dp.cont.ptr := s.dp.cont.ptr + 1 }) ∨
    ∃ (m : List F64) (n : Word) (e : F64), m.length = s.dp.cont.mags.length ∧ s.contStep xm = { s with
      dp.cont.frame := s.dp.cont.frame.set s.dp.cont.ptr xm, dp.cont.ptr := 0, dp.cont.mags := m, dp.cont.settle := n
      dp.freqEst := e }.push (.freqEst e) := by
  simp only [State.contStep]
  split
  · exact .inr ⟨_, _, _, List.length_mapIdx, State.push_mapDp _ _ fun d => { d with cont.ptr := 0 }⟩
  · exact .inl ⟨‹_›, rfl⟩

theorem State.acquire_ok {s t : State} {xm : Cplx} (h : s.acquire xm = .ok t) :
    (s.act.modeCont = true ∧ t = s.contStep xm) ∨ (s.act.modeCont = false ∧ s.burstStep xm = .ok t) := by
  unfold State.acquire at h
  split at h
  · exact .inl ⟨‹_›, (Except.ok.inj h).symm⟩
  · exact .inr ⟨by simpa using ‹¬s.act.modeCont = true›, h⟩

/-- The whole sample step, taken apart: the AGC and MIX, acquisition, the tracking stages, a symbol instant or none, the gate
and the counters (R350). -/
theorem State.sampleCore_stages {s t : State} {i q : Int} (h : s.sampleCore i q = .ok t) :
    ∃ (m : F64) (xm : Cplx) (s3 : State) (tr : (Cplx × Cplx) × (Bool × State)) (s10 s11 : State),
      ({ s with dp.agc.m := m, dp.mix := s.dp.mix.advance } : State).acquire xm = .ok s3 ∧ s3.trackSample xm = .ok tr ∧
      (s10 = tr.2.2 ∨ tr.2.2.stageSymbol tr.1.1 tr.1.2 = .ok s10) ∧ s10.gateStep = .ok s11 ∧ t = s11.stageCount := by
  obtain ⟨s3, tr, s10, s11, h3, htr, h10, h11, rfl⟩ := State.sampleCore_ok h
  refine ⟨_, _, s3, tr, s10, s11, h3, htr, ?_, h11, rfl⟩
  split at h10
  · exact .inr h10
  · exact .inl (Except.ok.inj h10).symm

end Sys2Proof.Machine
end

section
/-! SUPPORT. The events of a step, and the changes of DCD they report (10_state.md R67 to R69; 44_quality_softbits.md R320, R325,
R328): statement O52. -/

namespace Sys2Proof.Machine

-- One theorem at a time: elaborated side by side, they ask for more threads than the memory limit allows.
set_option Elab.async false

open F64

/-! ### The type of a record (R68, R69) -/

/-- The low byte of W0 is the type of the event. -/
theorem Event.record_type (seq : Word) (e : Event) : (e.record seq).type = e.type := by
  have hw0 : (e.record seq).w0 = eventW0 seq e.type := by cases e <;> rfl
  have hty : e.type < 256 := by cases e <;> simp [Event.type]
  rw [EvRecord.type, hw0, eventW0, BitVec.toNat_append, BitVec.toNat_ofNat,
    ← Nat.shiftLeft_add_eq_or_of_lt (Nat.mod_lt _ (by positivity)), Nat.shiftLeft_eq]
  omega

/-- An event that reports no change of DCD. -/
def Event.Silent (e : Event) : Prop := e.type ≠ 1 ∧ e.type ≠ 2

theorem Event.quality_silent (m n : F64) : (Event.quality m n).Silent := by simp [Event.Silent, Event.type]
theorem Event.freqEst_silent (f : F64) : (Event.freqEst f).Silent := by simp [Event.Silent, Event.type]
theorem Event.carrierFreq_silent (f : F64) : (Event.carrierFreq f).Silent := by simp [Event.Silent, Event.type]
theorem Event.fault_silent (c : FaultCode) (w : Word) : (Event.fault c w).Silent := by simp [Event.Silent, Event.type]

/-! ### What a computation does to the FIFO and to the soft-bit buffer

`Emits p a n s t`: from `s` to `t` at most n events are pushed, of them p SIG_PRESENT and a SIG_ABSENT, of which none is dropped,
and the soft-bit buffer takes bytes and sentinels only. -/

/-- The steps such a computation is made of; `u` is the state that a push is made from. -/
inductive Emits : Nat → Nat → Nat → State → State → Prop
  | still {s u : State} {n : Nat} (hf : u.fifo = s.fifo := by rfl) (hb : u.dp.gate.sb = s.dp.gate.sb := by rfl) : Emits 0 0 n s u
  | event {s : State} (u : State) (e : Event) (he : e.Silent)
      (hf : u.fifo = s.fifo := by rfl) (hb : u.dp.gate.sb = s.dp.gate.sb := by rfl) : Emits 0 0 1 s (u.push e)
  | present {s : State} (u : State) (idx : Word) (b : Bool) (h : s.fifo.length ≠ 64)
      (hf : u.fifo = s.fifo := by rfl) (hb : u.dp.gate.sb = s.dp.gate.sb := by rfl) : Emits 1 0 1 s (u.push (.sigPresent idx b))
  | absent {s : State} (u : State) (idx : Word) (b : Bool) (h : s.fifo.length ≠ 64)
      (hf : u.fifo = s.fifo := by rfl) (hb : u.dp.gate.sb = s.dp.gate.sb := by rfl) : Emits 0 1 1 s (u.push (.sigAbsent idx b))
  | soft {s : State} (u : State) {x : BitVec 16} (hx : x.toNat ≤ 256)
      (hf : u.fifo = s.fifo := by rfl) (hb : u.dp.gate.sb = s.dp.gate.sb := by rfl) : Emits 0 0 1 s (u.sbPush x)
  | trans {p a n p' a' n' : Nat} {s t u : State} (h : Emits p a n s t) (h' : Emits p' a' n' t u) :
      Emits (p + p') (a + a') (n + n') s u

/-- The records of a computation: none is lost of those before it. -/
structure Appends (p a n : Nat) (s t : State) (new : List EvRecord) : Prop where
  fifo : t.fifo = s.fifo ++ new
  length : new.length ≤ n
  present : new.countP (fun e => e.type == 1) = p
  absent : new.countP (fun e => e.type == 2) = a

theorem appends_nothing {s t : State} (h : t.fifo = s.fifo) (n : Nat) : ∃ new, Appends 0 0 n s t new :=
  ⟨[], by simp [h], Nat.zero_le _, rfl, rfl⟩

/-- A push that has room appends its record; one that has none appends nothing. -/
theorem State.push_appends {s u : State} {e : Event} {p a : Nat} (hf : u.fifo = s.fifo)
    (h : s.fifo.length ≠ 64 ∨ (p = 0 ∧ a = 0)) (hp : p = if e.type = 1 then 1 else 0)
    (ha : a = if e.type = 2 then 1 else 0) : ∃ new, Appends p a 1 s (u.push e) new := by
  rcases u.push_cases e with ⟨hfull, heq⟩ | ⟨-, heq⟩ <;> rw [heq]
  · obtain ⟨rfl, rfl⟩ : p = 0 ∧ a = 0 := h.resolve_left (not_not_intro (hf ▸ hfull))
    exact appends_nothing (t := { u with evovf := true }) hf 1
  · refine ⟨[e.record u.evseq], hf ▸ rfl, le_rfl, ?_, ?_⟩
    · simp [List.countP_cons, Event.record_type, hp]
    · simp [List.countP_cons, Event.record_type, ha]

/-- A computation appends the records it pushed. -/
theorem Emits.appends {p a n : Nat} {s t : State} (h : Emits p a n s t) : ∃ new, Appends p a n s t new := by
  induction h with
  | still hf hb => exact appends_nothing hf _
  | event u e he hf hb => exact State.push_appends hf (.inr ⟨rfl, rfl⟩) (by simp [he.1]) (by simp [he.2])
  | present u idx b h hf hb => exact State.push_appends hf (.inl h) rfl rfl
  | absent u idx b h hf hb => exact State.push_appends hf (.inl h) rfl rfl
  | @soft s u x hx hf hb =>
    simp only [State.sbPush]
    split
    · exact State.push_appends (u := { u with dp.gate.sb := [] }) hf (.inr ⟨rfl, rfl⟩) rfl rfl
    · exact appends_nothing (t := { u with dp.gate.sb := u.dp.gate.sb ++ [x] }) hf 1
  | trans _ _ ih ih' =>
    obtain ⟨l, hl⟩ := ih
    obtain ⟨l', hl'⟩ := ih'
    refine ⟨l ++ l', ?_, ?_, ?_, ?_⟩
    · rw [hl'.fifo, hl.fifo, List.append_assoc]
    · rw [List.length_append]; exact Nat.add_le_add hl.length hl'.length
    · rw [List.countP_append, hl.present, hl'.present]
    · rw [List.countP_append, hl.absent, hl'.absent]

theorem Emits.length_le {p a n : Nat} {s t : State} (h : Emits p a n s t) : t.fifo.length ≤ s.fifo.length + n := by
  obtain ⟨new, hnew⟩ := h.appends
  rw [hnew.fifo, List.length_append]
  exact Nat.add_le_add_left hnew.length _

/-- The records of a step that appends are the new ones. -/
theorem Appends.newRecords {p a n : Nat} {s t : State} {new : List EvRecord} (h : Appends p a n s t new) :
    newRecords s t = new := by
  rw [Machine.newRecords, h.fifo, List.drop_left]

/-! ### Lock, loss and the gate (R325 to R329) -/

@[simp] theorem State.push_sb (s : State) (e : Event) : (s.push e).dp.gate.sb = s.dp.gate.sb := by simp

@[simp] theorem State.sbPush_st (s : State) (x : BitVec 16) : (s.sbPush x).dp.gate.st = s.dp.gate.st := by
  simp only [State.sbPush]
  split <;> simp

/-- A lock pushes one SIG_PRESENT, and leaves the gate Acquiring. -/
theorem State.lockOn_emits (s : State) (b : Bool) (h : s.fifo.length ≠ 64) :
    Emits 1 0 2 s (s.lockOn b) ∧ (s.lockOn b).dp.gate.st = .acq := by
  set u := (if b then s.resetLoops else s).startGate with hu
  have hfifo : u.fifo = s.fifo := by cases b <;> rfl
  have hsb : u.dp.gate.sb = s.dp.gate.sb := by cases b <;> rfl
  have hst : u.dp.gate.st = .acq := by cases b <;> rfl
  refine ⟨.trans (.present u u.sampleIndex b h hfifo hsb) (.soft _ (by decide)), ?_⟩
  rw [State.lockOn, ← hu, State.sbPush_st, State.push_dp, hst]

/-- The gate step keeps the gate or moves it from ACQ to LOCK, without an event; or loses the signal with one SIG_ABSENT. -/
theorem State.gateStep_emits {s t : State} (h : s.gateStep = .ok t)
    (hroom : s.dp.gate.st = .lock → s.fifo.length ≠ 64) :
    (Emits 0 0 0 s t ∧ (t.dp.gate.st = .noSig ↔ s.dp.gate.st = .noSig)) ∨
    (s.dp.gate.st = .lock ∧ t.dp.gate.st = .noSig ∧ Emits 0 1 1 s t) := by
  rcases State.gateStep_ok h with rfl | ⟨hst, n, st, hst', rfl⟩ | ⟨hst, c, rfl⟩ | ⟨hst, c, hl⟩
  · exact .inl ⟨.still, Iff.rfl⟩
  · exact .inl ⟨.still, by simp [hst, hst']⟩
  · exact .inl ⟨.still, Iff.rfl⟩
  · obtain ⟨w, rfl⟩ := State.lost_ok hl
    exact .inr ⟨hst, by simp, .absent _ _ _ (hroom hst)⟩

theorem State.stageCount_emits (s : State) : Emits 0 0 1 s s.stageCount ∧ s.stageCount.dp.gate.st = s.dp.gate.st := by
  rcases s.stageCount_cases with h | ⟨e, h⟩ <;> rw [h]
  · exact ⟨.still, rfl⟩
  · exact ⟨.event _ _ (Event.quality_silent _ _), by simp [State.countSample]⟩

/-! ### What the stages before the gate do to DCD (R252, R324) -/

theorem Emits.before {p a n : Nat} {s u t : State} (h : Emits p a n u t)
    (hf : u.fifo = s.fifo := by rfl) (hb : u.dp.gate.sb = s.dp.gate.sb := by rfl) : Emits p a n s t := by
  have h0 : Emits 0 0 0 s u := .still hf hb
  simpa using h0.trans h

theorem Emits.after {p a n : Nat} {s t u : State} (h : Emits p a n s t)
    (hf : u.fifo = t.fifo := by rfl) (hb : u.dp.gate.sb = t.dp.gate.sb := by rfl) : Emits p a n s u :=
  h.trans (n' := 0) (.still hf hb)

theorem Emits.mono {p a n m : Nat} {s t : State} (h : Emits p a n s t) (hm : n ≤ m) : Emits p a m s t :=
  Nat.add_sub_of_le hm ▸ h.trans (n' := m - n) .still

/-- At most n events of other kinds and the same gate; or, where no signal was held, a lock with one SIG_PRESENT, with at most
m events in all. -/
def LocksOrKeeps (n m : Nat) (s t : State) : Prop :=
  (Emits 0 0 n s t ∧ t.dp.gate.st = s.dp.gate.st) ∨
  (s.dp.gate.st = .noSig ∧ t.dp.gate.st = .acq ∧ Emits 1 0 m s t)

theorem LocksOrKeeps.mono {n m n' m' : Nat} {s t : State} (h : LocksOrKeeps n m s t) (hn : n ≤ n') (hm : m ≤ m') :
    LocksOrKeeps n' m' s t := by
  rcases h with ⟨hem, hst⟩ | ⟨hs, ht, hem⟩
  · exact .inl ⟨hem.mono hn, hst⟩
  · exact .inr ⟨hs, ht, hem.mono hm⟩

/-- One lock at most: after the first a signal is held. -/
theorem LocksOrKeeps.trans {n m n' m' : Nat} {s t u : State} (h : LocksOrKeeps n m s t) (h' : LocksOrKeeps n' m' t u) :
    LocksOrKeeps (n + n') (n + m + (n' + m')) s u := by
  rcases h with ⟨hem, hst⟩ | ⟨hs, ht, hem⟩ <;> rcases h' with ⟨hem', hst'⟩ | ⟨hs', ht', hem'⟩
  · exact .inl ⟨hem.trans hem', hst'.trans hst⟩
  · exact .inr ⟨hst ▸ hs', ht', (hem.trans hem').mono (by omega)⟩
  · exact .inr ⟨hs, hst'.trans ht, (hem.trans hem').mono (by omega)⟩
  · rw [ht] at hs'
    cases hs'

/-- A state that differs in neither the FIFO nor the gate may stand for the first. -/
theorem LocksOrKeeps.before {n m : Nat} {s u t : State} (h : LocksOrKeeps n m u t)
    (hf : u.fifo = s.fifo := by rfl) (hg : u.dp.gate = s.dp.gate := by rfl) : LocksOrKeeps n m s t := by
  have hb : u.dp.gate.sb = s.dp.gate.sb := by rw [hg]
  have hst : u.dp.gate.st = s.dp.gate.st := by rw [hg]
  rcases h with ⟨hem, h⟩ | ⟨h, h', hem⟩
  · exact .inl ⟨hem.before hf hb, h.trans hst⟩
  · exact .inr ⟨hst ▸ h, h', hem.before hf hb⟩

theorem LocksOrKeeps.length_le {n m : Nat} {s t : State} (h : LocksOrKeeps n m s t) :
    t.fifo.length ≤ s.fifo.length + max n m := by
  rcases h with ⟨hem, -⟩ | ⟨-, -, hem⟩ <;> have := hem.length_le <;> omega

theorem State.contLock_locksOrKeeps (s : State) (hroom : s.fifo.length ≠ 64) : LocksOrKeeps 0 2 s s.contLock := by
  rcases s.contLock_cases with h | ⟨hst, h⟩ <;> rw [h]
  · exact .inl ⟨.still, rfl⟩
  · obtain ⟨hem, hst'⟩ := s.lockOn_emits false hroom
    exact .inr ⟨hst, hst', hem⟩

theorem State.decodeSymbol_emits (s : State) (zc zd : Cplx) :
    (s.decodeSymbol zc zd).dp.gate.st = s.dp.gate.st ∧
    (Emits 0 0 0 s (s.decodeSymbol zc zd) ∨ (s.dp.gate.st ≠ .noSig ∧ Emits 0 0 2 s (s.decodeSymbol zc zd))) := by
  rcases s.decodeSymbol_cases zc zd with h | ⟨hst, x, y, hx, hy, h⟩ <;> rw [h]
  · exact ⟨rfl, .inl .still⟩
  · have hx' : Emits 0 0 1 s ({ s with dp.gate.zpp := zc }.sbPush x) := .soft { s with dp.gate.zpp := zc } (hx.trans (by decide))
    exact ⟨by simp, .inr ⟨hst, hx'.trans (.soft _ (hy.trans (by decide)))⟩⟩

/-- A symbol instant pushes soft bytes while a signal is held, or may lock where none is. -/
theorem State.stageSymbol_locksOrKeeps {s t : State} {zc zd : Cplx} (h : s.stageSymbol zc zd = .ok t)
    (hroom : s.fifo.length < 64) : LocksOrKeeps 2 2 s t := by
  obtain ⟨o, m, -, rfl⟩ := State.stageSymbol_ok h
  set u : State := { s with dp.car := o, dp.qgMse.y := m }
  obtain ⟨hst, hem⟩ := u.decodeSymbol_emits zc zd
  set v := u.decodeSymbol zc zd
  have hvst : v.countSymbol.dp.gate.st = s.dp.gate.st := hst
  have hwrap {n : Nat} (h : Emits 0 0 n u v) : Emits 0 0 n s v.countSymbol :=
    (h.before (s := s)).after (u := v.countSymbol)
  rcases hem with hem | ⟨hheld, hem⟩
  · have hlen := (hwrap hem).length_le
    rcases v.countSymbol.contLock_locksOrKeeps (by omega) with ⟨hl, hl'⟩ | ⟨hl, hl', hk⟩
    · exact .inl ⟨(hwrap hem).trans (hl.mono (Nat.zero_le 2)), hl'.trans hvst⟩
    · exact .inr ⟨hvst ▸ hl, hl', (hwrap hem).trans hk⟩
  · rcases v.countSymbol.contLock_cases with hl | ⟨hl, -⟩
    · rw [hl]
      exact .inl ⟨hwrap hem, hvst⟩
    · exact absurd (hst.symm.trans hl) hheld

theorem State.verify_locksOrKeeps {s t : State} (h : s.verify = .ok t) (hroom : s.fifo.length ≤ 62) : LocksOrKeeps 0 3 s t := by
  rcases State.verify_ok h with rfl | ⟨hst, lo, hi, hzb, b, hacc⟩
  · exact .inl ⟨.still, rfl⟩
  · obtain ⟨w, p, f, rfl⟩ := State.acceptActions_ok hacc
    set u : State := { s with dp.mix.ftw := w, dp.gate.carrier := f, dp.car.phase := p, dp.car.armed := true }
    have hcf : Emits 0 0 1 s (u.push (.carrierFreq f)) := .event u _ (Event.carrierFreq_silent f)
    have hlen := hcf.length_le
    obtain ⟨hem, hst'⟩ := (u.push (.carrierFreq f)).lockOn_emits true (by omega)
    exact .inr ⟨hst, hst', (hcf.trans hem).after⟩

theorem State.burstStep_locksOrKeeps {s t : State} {xm : Cplx} (h : s.burstStep xm = .ok t) (hroom : s.fifo.length ≤ 62) :
    LocksOrKeeps 0 3 s t := by
  obtain ⟨ys, yl, bt, hfill⟩ := State.burstStep_ok h
  rcases State.fillStep_ok hfill with ⟨-, rfl⟩ | ⟨-, -, rfl⟩ | ⟨-, -, hv⟩
  · exact .inl ⟨.still, rfl⟩
  · exact .inl ⟨.still, rfl⟩
  · exact (State.verify_locksOrKeeps hv hroom).before

theorem State.contStep_emits (s : State) (xm : Cplx) :
    Emits 0 0 1 s (s.contStep xm) ∧ (s.contStep xm).dp.gate.st = s.dp.gate.st := by
  rcases s.contStep_cases xm with ⟨-, h⟩ | ⟨m, n, e, -, h⟩ <;> rw [h]
  · exact ⟨.still, rfl⟩
  · exact ⟨.event _ _ (Event.freqEst_silent e), by simp⟩

/-- Acquisition pushes at most FREQ_EST, or locks where no signal is held. -/
theorem State.acquire_locksOrKeeps {s t : State} {xm : Cplx} (h : s.acquire xm = .ok t) (hroom : s.fifo.length ≤ 62) :
    LocksOrKeeps 1 3 s t := by
  rcases State.acquire_ok h with ⟨-, rfl⟩ | ⟨-, hb⟩
  · exact .inl (s.contStep_emits xm)
  · exact (State.burstStep_locksOrKeeps hb hroom).mono (Nat.zero_le 1) le_rfl

/-! ### The changes of DCD (R320) -/

/-- DCD is as it was without a signal event; or it rises with one SIG_PRESENT; or it falls with one SIG_ABSENT. -/
inductive Edge (s t : State) : Prop
  | none (n : Nat) (h : Emits 0 0 n s t) (hd : t.dcd = s.dcd)
  | rise (n : Nat) (h : Emits 1 0 n s t) (hs : s.dcd = false) (ht : t.dcd = true)
  | fall (n : Nat) (h : Emits 0 1 n s t) (hs : s.dcd = true) (ht : t.dcd = false)

theorem State.dcd_eq_false_iff {s : State} : s.dcd = false ↔ s.dp.gate.st = .noSig := by
  simp [State.dcd]

theorem State.dcd_congr {s t : State} (h : t.dp.gate.st = .noSig ↔ s.dp.gate.st = .noSig) : t.dcd = s.dcd := by
  rw [Bool.eq_iff_iff, ← Bool.not_eq_false, ← Bool.not_eq_false, State.dcd_eq_false_iff, State.dcd_eq_false_iff, h]

theorem State.dcd_of_st {s : State} {g : GateState} (h : s.dp.gate.st = g) : s.dcd = (g != .noSig) := by
  rw [State.dcd, h]

/-- The new records report what DCD did: one SIG_PRESENT where it rose, one SIG_ABSENT where it fell, none else (R320). -/
def DcdReported (s t : State) : Prop :=
  (newRecords s t).countP (fun e => e.type == 1) = (if s.dcd = false ∧ t.dcd = true then 1 else 0) ∧
  (newRecords s t).countP (fun e => e.type == 2) = (if s.dcd = true ∧ t.dcd = false then 1 else 0)

theorem Appends.reported {p a n : Nat} {s t : State} {new : List EvRecord} (h : Appends p a n s t new)
    (hp : p = if s.dcd = false ∧ t.dcd = true then 1 else 0) (ha : a = if s.dcd = true ∧ t.dcd = false then 1 else 0) :
    DcdReported s t := by
  rw [DcdReported, h.newRecords]
  exact ⟨h.present.trans hp, h.absent.trans ha⟩

theorem Edge.reported {s t : State} (h : Edge s t) : DcdReported s t := by
  cases h with
  | none n h hd =>
    obtain ⟨new, hnew⟩ := h.appends
    exact hnew.reported (by rw [hd]; cases s.dcd <;> rfl) (by rw [hd]; cases s.dcd <;> rfl)
  | rise n h hs ht | fall n h hs ht =>
    obtain ⟨new, hnew⟩ := h.appends
    exact hnew.reported (by rw [hs, ht]; rfl) (by rw [hs, ht]; rfl)

theorem Edge.emits {s t : State} (h : Edge s t) : ∃ p a n, Emits p a n s t := by
  cases h with
  | none n h => exact ⟨_, _, n, h⟩
  | rise n h => exact ⟨_, _, n, h⟩
  | fall n h => exact ⟨_, _, n, h⟩

/-- The gate step and the counters end a sample: a signal locked in this sample is not lost in it. -/
theorem LocksOrKeeps.edge {n m : Nat} {s u v : State} (h : LocksOrKeeps n m s u) (hroom : s.fifo.length + n < 64)
    (hg : u.gateStep = .ok v) : Edge s v.stageCount := by
  obtain ⟨hcount, hcst⟩ := v.stageCount_emits
  rcases h with ⟨hem, hst⟩ | ⟨hno, hacq, hem⟩
  · have hlen := hem.length_le
    rcases State.gateStep_emits hg (fun _ => by omega) with ⟨hem', hst'⟩ | ⟨hlock, hno, hem'⟩
    · exact .none _ ((hem.trans hem').trans hcount) (State.dcd_congr (by rw [hcst, hst', hst]))
    · exact .fall _ ((hem.trans hem').trans hcount) (State.dcd_of_st (hst.symm.trans hlock))
        (State.dcd_of_st (hcst.trans hno))
  · rcases State.gateStep_emits hg (fun h => by rw [hacq] at h; cases h) with ⟨hem', hst'⟩ | ⟨hlock, -, -⟩
    · refine .rise _ ((hem.trans hem').trans hcount) (State.dcd_of_st hno) ?_
      rw [← Bool.not_eq_false, State.dcd_eq_false_iff, hcst, hst', hacq]
      decide
    · rw [hacq] at hlock
      cases hlock

/-- A sample is accepted with at most 60 records (R351). -/
theorem backPressure_eq_false_iff {s : State} : s.backPressure = false ↔ s.fifo.length ≤ 60 :=
  decide_eq_false_iff_not.trans Nat.not_lt

/-- The stages of a sample before the gate (R350). -/
theorem locksOrKeeps_of_stages {s s3 s10 : State} {m : F64} {xm : Cplx} {tr : (Cplx × Cplx) × (Bool × State)}
    (h3 : ({ s with dp.agc.m := m, dp.mix := s.dp.mix.advance } : State).acquire xm = .ok s3) (htr : s3.trackSample xm = .ok tr)
    (h10 : s10 = tr.2.2 ∨ tr.2.2.stageSymbol tr.1.1 tr.1.2 = .ok s10) (hroom : s.fifo.length ≤ 60) :
    LocksOrKeeps 3 8 s s10 := by
  have hacq : LocksOrKeeps 1 3 s s3 := (State.acquire_locksOrKeeps h3 (hroom.trans (by decide))).before
  have hlen := hacq.length_le
  obtain ⟨x, y, u, r, e, d, htrack⟩ := State.trackSample_ok htr
  have hsym : LocksOrKeeps 2 2 s3 s10 := by
    rcases h10 with rfl | h10
    · rw [htrack]
      exact .inl ⟨.still, rfl⟩
    · rw [htrack] at h10
      exact (State.stageSymbol_locksOrKeeps h10 (show s3.fifo.length < 64 by omega)).before
  exact (hacq.trans hsym).mono le_rfl (by decide)

/-- A sample that goes through. -/
theorem State.sampleCore_edge {s t : State} {i q : Int} (h : s.sampleCore i q = .ok t) (hroom : s.fifo.length ≤ 60) :
    Edge s t := by
  obtain ⟨m, xm, s3, tr, s10, s11, h3, htr, h10, h11, rfl⟩ := State.sampleCore_stages h
  exact (locksOrKeeps_of_stages h3 htr h10 hroom).edge (by omega) h11

/-! ### Every step -/

theorem Edge.of_eq {s t : State} (hf : t.fifo = s.fifo := by rfl) (hg : t.dp.gate = s.dp.gate := by rfl) : Edge s t :=
  .none 0 (.still hf (by rw [hg])) (State.dcd_congr (by rw [hg]))

theorem raiseFault_edge (c : FaultCode) (info : Word) (s : State) : Edge s (raiseFault c info s) :=
  .none 1 (.event _ _ (Event.fault_silent c info)) (State.dcd_congr (by simp))

/-- An edge is blind to the bus. -/
theorem Edge.bus {s t : State} (h : Edge s t) (b : Bus) : Edge s { t with bus := b } := by
  cases h with
  | none n h hd => exact .none n h.after hd
  | rise n h hs ht => exact .rise n h.after hs ht
  | fall n h hs ht => exact .fall n h.after hs ht

theorem State.Commanded.edge {s t : State} (h : s.Commanded t) : Edge s t := by
  cases h with
  | osc k o | passed k o x => cases k <;> exact .of_eq
  | ema k x y => cases k <;> exact .of_eq
  | _ => exact .of_eq

/-- A step that only takes records away reports nothing. -/
theorem dcdReported_of_length_le {s t : State} (hf : t.fifo.length ≤ s.fifo.length) (hd : t.dcd = s.dcd) : DcdReported s t := by
  rw [DcdReported, newRecords, List.drop_of_length_le hf, hd]
  cases s.dcd <;> simp

theorem writeReg_reported (s : State) (r : Reg) (v : Word) : DcdReported s (writeReg s r v) := by
  cases r with
  | evPop => exact dcdReported_of_length_le (by simp [writeReg, State.popEvent]) rfl
  | oscPhase k | oscFtw k | oscPoint k => cases k <;> exact (Edge.of_eq : Edge s _).reported
  | _ => exact (Edge.of_eq : Edge s _).reported

/-- An APPLY that clears DCD on a full FIFO: its event is dropped, and EVOVF says so (R67, R373). -/
def ApplyDrops (s t : State) : Prop :=
  s.fifo.length = 64 ∧ s.dcd = true ∧ t.dcd = false ∧ t.evovf = true ∧ t.fifo = s.fifo

/-- APPLY lets a held signal go with one SIG_ABSENT (R373). -/
theorem applied_reported (s : State) : ApplyDrops s (s.applyEvent s.applied) ∨ DcdReported s (s.applyEvent s.applied) := by
  have hoff : s.applied.dcd = false := rfl
  unfold State.applyEvent
  cases hd : s.dcd
  · exact .inr (dcdReported_of_length_le (t := s.applied) le_rfl (hoff.trans hd.symm))
  · by_cases hfull : s.fifo.length = 64
    · refine .inl ⟨hfull, hd, ?_⟩
      rw [if_pos rfl, State.push, if_pos (show s.applied.fifo.length = params.evDepth from hfull)]
      exact ⟨hoff, rfl, rfl⟩
    · obtain ⟨new, happ⟩ : ∃ new, Appends 0 1 1 s (s.applied.push (.sigAbsent s.sampleIndex true)) new :=
        State.push_appends (u := s.applied) rfl (.inl hfull) rfl rfl
      have hpush : (s.applied.push (.sigAbsent s.sampleIndex true)).dcd = false := by simp [State.dcd, rebuild, gateOf]
      rw [if_pos rfl]
      exact .inr (happ.reported (by rw [hd, hpush]; rfl) (by rw [hd, hpush]; rfl))

/-- Every instruction but RESET reports what it does to DCD, or is an APPLY on a full FIFO. -/
theorem State.Executed.reported {s t : State} {i : Instr} (h : s.Executed i t) :
    i = .reset ∨ (i = .apply ∧ ApplyDrops s t) ∨ DcdReported s t := by
  cases h with
  | kept i => exact .inr (.inr (Edge.of_eq : Edge s s).reported)
  | faulted i c info => exact .inr (.inr (raiseFault_edge c info s).reported)
  | applied => exact .inr ((applied_reported s).imp_left fun h => ⟨rfl, h⟩)
  | reset => exact .inl rfl
  | flushed => exact .inr (.inr (dcdReported_of_length_le (Nat.zero_le _) rfl))
  | commanded i h => exact .inr (.inr h.edge.reported)
  | overrun i q => exact .inr (.inr (Edge.of_eq : Edge s { s with ovr := true }).reported)
  | sampled i q hb h => exact .inr (.inr (State.sampleCore_edge h (backPressure_eq_false_iff.mp hb)).reported)

/-- Settles O52: an access reports what it does to DCD; the exceptions are the words of RESET and APPLY. -/
theorem dcdEdgesHaveEvents : Obligations.DcdEdgesHaveEvents := by
  intro s t hstep
  rcases step_accessed hstep with rfl | ⟨a, rest, hp, hacc⟩
  · exact .inr (.inr (Edge.of_eq : Edge t t).reported)
  · cases hacc with
    | responded r => exact .inr (.inr (Edge.of_eq : Edge s _).reported)
    | busFault r => exact .inr (.inr ((raiseFault_edge _ _ (s.takeAccess rest)).bus _).reported)
    | ignored => exact .inr (.inr (Edge.of_eq : Edge s _).reported)
    | illegal w => exact .inr (.inr (raiseFault_edge _ _ (s.takeAccess rest)).reported)
    | wrote r v => exact .inr (.inr (writeReg_reported (s.takeAccess rest) r v))
    | ran p w i ha hd h =>
      subst ha
      rcases h.reported with rfl | ⟨rfl, hdrop⟩ | hrep
      · exact .inl ⟨rest, ofWord_of_command (i := .reset) rfl hd ▸ hp⟩
      · exact .inr (.inl ⟨⟨rest, ofWord_of_command (i := .apply) rfl hd ▸ hp⟩, hdrop⟩)
      · exact .inr (.inr hrep)

end Sys2Proof.Machine
end

section
/-! SUPPORT. The sample step neither reads nor writes the registers outside the datapath (10_state.md R34, R37, R42;
45_sample_pipeline.md R356): statement O54. -/

namespace Sys2Proof.Machine

-- One theorem at a time: elaborated side by side, they ask for more threads than the memory limit allows.
set_option Elab.async false

open F64

/-! ### The state outside the datapath

Every stage of the sample step commutes with putting other values there, so it does not read them; and it gives back the values
it was given, so it does not write them. -/

/-- The operands, the results, the pending settings, CTRL, OVR, the fault registers and the bus. -/
structure Outer where
  arg0 : F64
  arg1 : F64
  res0 : F64
  res1 : F64
  pend : Settings
  ctrl : BitVec 4
  ovr : Bool
  fault : Bool
  err : BitVec 8
  errInfo : Word
  bus : Bus

def State.outer (s : State) : Outer :=
  ⟨s.arg0, s.arg1, s.res0, s.res1, s.pend, s.ctrl, s.ovr, s.fault, s.err, s.errInfo, s.bus⟩

/-- The state with other values outside the datapath. -/
def State.dress (s : State) (o : Outer) : State := { s with
  arg0 := o.arg0, arg1 := o.arg1, res0 := o.res0, res1 := o.res1, pend := o.pend, ctrl := o.ctrl, ovr := o.ovr
  fault := o.fault, err := o.err, errInfo := o.errInfo, bus := o.bus }

/-- A computation is blind to the state outside the datapath. -/
def Blind (f : State → Res State) : Prop := ∀ (s : State) (o : Outer), f (s.dress o) = (f s).map (·.dress o)

/-- A blind computation leaves the state outside the datapath as it was. -/
theorem Blind.outer_eq {f : State → Res State} (hf : Blind f) {s t : State} (h : f s = .ok t) : t.outer = s.outer := by
  have hs := hf s s.outer
  rw [show s.dress s.outer = s from rfl, h] at hs
  have ht : t = t.dress s.outer := Except.ok.inj hs
  rw [ht]
  rfl

/-- Blind computations in a row. -/
theorem Blind.bind {f g : State → Res State} (hf : Blind f) (hg : Blind g) : Blind fun s => f s >>= g := by
  intro s o
  show f (s.dress o) >>= g = (f s >>= g).map (·.dress o)
  rw [hf s o]
  cases f s with
  | error c => rfl
  | ok t => exact hg t o

/-! ### Events, lock, loss and the gate -/

theorem State.push_dress (s : State) (o : Outer) (e : Event) : (s.dress o).push e = (s.push e).dress o := by
  by_cases h : s.fifo.length = params.evDepth
  · rw [State.push, State.push, if_pos h, if_pos (show (s.dress o).fifo.length = params.evDepth from h)]
    rfl
  · rw [State.push, State.push, if_neg h, if_neg (show (s.dress o).fifo.length ≠ params.evDepth from h)]
    rfl

theorem State.sbPush_dress (s : State) (o : Outer) (x : BitVec 16) : (s.dress o).sbPush x = (s.sbPush x).dress o := by
  by_cases h : (s.dp.gate.sb ++ [x]).length = params.sbBatch
  · rw [State.sbPush, State.sbPush, if_pos h, if_pos (show ((s.dress o).dp.gate.sb ++ [x]).length = params.sbBatch from h)]
    exact State.push_dress { s with dp.gate.sb := [] } o _
  · rw [State.sbPush, State.sbPush, if_neg h, if_neg (show ((s.dress o).dp.gate.sb ++ [x]).length ≠ params.sbBatch from h)]
    rfl

theorem State.lockOn_dress (s : State) (o : Outer) (b : Bool) : (s.dress o).lockOn b = (s.lockOn b).dress o := by
  cases b
  · exact (congrArg (State.sbPush · params.sbSentinel) (State.push_dress s.startGate o _)).trans (State.sbPush_dress _ o _)
  · exact (congrArg (State.sbPush · params.sbSentinel) (State.push_dress s.resetLoops.startGate o _)).trans
      (State.sbPush_dress _ o _)

theorem State.retune_blind (hz : F64) : Blind fun s => s.retune hz := by
  intro s o
  show Except.map _ (s.dp.mix.setFrequency hz s.act.fs) = Except.map _ (Except.map _ (s.dp.mix.setFrequency hz s.act.fs))
  cases s.dp.mix.setFrequency hz s.act.fs <;> rfl

/-- The lost signal, with its event pushed last (R328). -/
theorem State.lost_eq (s : State) : s.lost = (s.dp.mix.setFrequency s.act.fc s.act.fs).map fun m =>
    { s with dp.gate.st := .noSig, dp.gate.carrier := s.act.fc, dp.qgMse.y := params.qgMseNolock, dp.mix := m }.push
      (.sigAbsent s.sampleIndex false) := by
  set u := { s with dp.gate.st := .noSig }.push (.sigAbsent s.sampleIndex false) with hu
  have hset : u.dp.mix.setFrequency s.act.fc u.act.fs = s.dp.mix.setFrequency s.act.fc s.act.fs := by simp [hu]
  show Except.map _ (u.dp.mix.setFrequency s.act.fc u.act.fs) = _
  rw [hset]
  congr 1
  funext m
  exact State.push_mapDp { s with dp.gate.st := .noSig } _
    fun d => { d with gate.carrier := s.act.fc, qgMse.y := params.qgMseNolock, mix := m }

theorem State.lost_blind : Blind fun s => s.lost := by
  intro s o
  have hdp : (s.dress o).dp = s.dp := rfl
  have hact : (s.dress o).act = s.act := rfl
  simp only [State.lost_eq, hdp, hact]
  cases s.dp.mix.setFrequency s.act.fc s.act.fs with
  | error c => rfl
  | ok m => exact congrArg Except.ok (State.push_dress { s with
      dp.gate.st := .noSig, dp.gate.carrier := s.act.fc, dp.qgMse.y := params.qgMseNolock, dp.mix := m } o _)

theorem State.gateStep_blind : Blind fun s => s.gateStep := by
  intro s o
  have hdp : (s.dress o).dp = s.dp := rfl
  have hact : (s.dress o).act = s.act := rfl
  simp only [State.gateStep, hdp, hact]
  split
  · rfl
  · split <;> rfl
  · split
    · rfl
    · split
      · exact State.lost_blind { s with dp.gate.cd := s.dp.gate.cd - 1 } o
      · rfl

theorem State.stageCount_dress (s : State) (o : Outer) : (s.dress o).stageCount = s.stageCount.dress o := by
  have hdp : (s.dress o).countSample.dp = s.countSample.dp := rfl
  simp only [State.stageCount, State.qualityReport, hdp]
  split
  · exact State.push_dress { s.countSample with dp.ebno := ebnoOf s.dp.qgMse.y } o _
  · rfl

/-! ### The symbol instant and the tracking stages -/

theorem State.carrierUpdate_blind (zc zd : Cplx) : Blind fun s => s.carrierUpdate zc zd := by
  intro s o
  have hdp : (s.dress o).dp = s.dp := rfl
  simp only [State.carrierUpdate, hdp]
  cases s.dp.car.advanceFraction ((params.carKp.mul (carrierError zc zd)).div twoPi) with
  | error c => rfl
  | ok o1 =>
    show (o1.frequencyTerm _ _ >>= _) = Except.map _ (o1.frequencyTerm _ _ >>= _)
    cases o1.frequencyTerm (decide (s.dp.carFstart ≤ s.dp.gate.symSince.toNat)) (carrierError zc zd) <;> rfl

theorem State.decodeSymbol_dress (s : State) (o : Outer) (zc zd : Cplx) :
    (s.dress o).decodeSymbol zc zd = (s.decodeSymbol zc zd).dress o := by
  have hdp : (s.dress o).dp = s.dp := rfl
  simp only [State.decodeSymbol, hdp]
  split
  · rfl
  · exact (congrArg (State.sbPush · _) (State.sbPush_dress { s with dp.gate.zpp := zc } o _)).trans (State.sbPush_dress _ o _)

theorem State.contLock_dress (s : State) (o : Outer) : (s.dress o).contLock = s.contLock.dress o := by
  have hdp : (s.dress o).dp = s.dp := rfl
  have hact : (s.dress o).act = s.act := rfl
  simp only [State.contLock, hdp, hact]
  split
  · exact State.lockOn_dress s o false
  · rfl

theorem State.stageSymbol_blind (zc zd : Cplx) : Blind fun s => s.stageSymbol zc zd := by
  intro s o
  have htail (u : State) : ((u.dress o).decodeSymbol zc zd).countSymbol.contLock =
      ((u.decodeSymbol zc zd).countSymbol.contLock).dress o := by
    rw [State.decodeSymbol_dress]
    exact State.contLock_dress (u.decodeSymbol zc zd).countSymbol o
  have hcar := State.carrierUpdate_blind zc zd s o
  dsimp only at hcar
  simp only [State.stageSymbol, hcar]
  cases s.carrierUpdate zc zd with
  | error c => rfl
  | ok s1 => exact congrArg Except.ok (htail { s1 with dp.qgMse := s1.dp.qgMse.push (slice ⟨zc.re, zd.im⟩).1 })

theorem State.stageAgc_dress (s : State) (o : Outer) (z : Cplx) :
    (s.dress o).stageAgc z = ((s.stageAgc z).1, (s.stageAgc z).2.dress o) := rfl

theorem State.stageMix_dress (s : State) (o : Outer) (z : Cplx) :
    (s.dress o).stageMix z = ((s.stageMix z).1, (s.stageMix z).2.dress o) := rfl

theorem State.stageCarrier_dress (s : State) (o : Outer) (z : Cplx) :
    (s.dress o).stageCarrier z = ((s.stageCarrier z).1, (s.stageCarrier z).2.dress o) := rfl

theorem State.stageFilter_dress (s : State) (o : Outer) (z : Cplx) :
    (s.dress o).stageFilter z = ((s.stageFilter z).1, (s.stageFilter z).2.dress o) := rfl

theorem State.stageDelay_dress (s : State) (o : Outer) (z : Cplx) :
    (s.dress o).stageDelay z = ((s.stageDelay z).1, (s.stageDelay z).2.dress o) := rfl

theorem State.stageResonator_dress (s : State) (o : Outer) (z : Cplx) :
    (s.dress o).stageResonator z = ((s.stageResonator z).1, (s.stageResonator z).2.dress o) := rfl

theorem State.stageTed_dress (s : State) (o : Outer) (sd : F64) : (s.dress o).stageTed sd = (s.stageTed sd).dress o := rfl

theorem State.stageTiming_dress (s : State) (o : Outer) :
    (s.dress o).stageTiming = s.stageTiming.map fun r => (r.1, r.2.dress o) := by
  have hdp : (s.dress o).dp = s.dp := rfl
  have hgain : (s.dress o).timingGain = s.timingGain := rfl
  simp only [State.stageTiming, hdp, hgain]
  cases s.dp.tim.advance.advanceFraction ((s.timingGain).mul s.dp.ted.y).neg <;> rfl

theorem State.trackSample_dress (s : State) (o : Outer) (xm : Cplx) :
    (s.dress o).trackSample xm = (s.trackSample xm).map fun tr => (tr.1, (tr.2.1, tr.2.2.dress o)) := by
  simp only [State.trackSample, State.stageCarrier_dress, State.stageFilter_dress, State.stageDelay_dress,
    State.stageResonator_dress, State.stageTed_dress, State.stageTiming_dress]
  generalize State.stageTiming _ = r
  cases r <;> rfl

/-! ### Acquisition -/

theorem State.acceptActions_blind (lo hi : Int) (hzb : F64) (b : Cplx) : Blind fun s => s.acceptActions lo hi hzb b := by
  intro s o
  have hdp : (s.dress o).dp = s.dp := rfl
  have htune (f : F64) : (s.dress o).retune f = (s.retune f).map (·.dress o) := State.retune_blind f s o
  have hlock (u : State) (e : Event) : ((u.dress o).push e).lockOn true = ((u.push e).lockOn true).dress o := by
    rw [State.push_dress, State.lockOn_dress]
  simp only [State.acceptActions, hdp, htune]
  generalize s.dp.gate.carrier.add _ = f
  cases s.retune f with
  | error c => rfl
  | ok s1 =>
    show (phaseword _ >>= _) = Except.map _ (phaseword _ >>= _)
    cases phaseword ((Config.atan2 b.im b.re).div twoPi) with
    | error c => rfl
    | ok p =>
      exact congrArg (fun u : State => Except.ok { u with dp.acq.st := .locked })
        (hlock { s1 with dp.car.phase := p, dp.car.armed := true } (.carrierFreq f))

theorem State.verify_blind : Blind fun s => s.verify := by
  intro s o
  have hdp : (s.dress o).dp = s.dp := rfl
  have hact : (s.dress o).act = s.act := rfl
  have haccepts (m r : F64) : (s.dress o).accepts m r = s.accepts m r := rfl
  simp only [State.verify, State.verifyWith, hdp, hact, haccepts]
  split
  · rfl
  split
  · split
    · rfl
    split
    · exact State.acceptActions_blind _ _ _ _ s o
    · rfl
  · rfl

theorem State.fillStep_blind (xm : Cplx) : Blind fun s => s.fillStep xm := by
  intro s o
  have hdp : (s.dress o).dp = s.dp := rfl
  simp only [State.fillStep, hdp]
  split
  · split
    · exact State.verify_blind { s with
        dp.acq.buf := s.dp.acq.buf.set s.dp.acq.ptr xm, dp.acq.ptr := s.dp.acq.ptr + 1, dp.acq.st := .verifying } o
    · rfl
  · rfl

theorem State.burstStep_blind (xm : Cplx) : Blind fun s => s.burstStep xm := fun s o =>
  State.fillStep_blind xm
    { (s.envelope xm).2 with dp.acq := (s.envelope xm).2.dp.acq.detect (s.envelope xm).1 } o

theorem State.contFrame_dress (s : State) (o : Outer) : (s.dress o).contFrame = s.contFrame.dress o := by
  unfold State.contFrame
  exact State.push_dress { s with dp.cont.mags := _, dp.cont.settle := _, dp.freqEst := _ } o _

theorem State.contStep_dress (s : State) (o : Outer) (xm : Cplx) : (s.dress o).contStep xm = (s.contStep xm).dress o := by
  have hdp : (s.dress o).dp = s.dp := rfl
  simp only [State.contStep, hdp]
  split
  · exact congrArg (fun u : State => { u with dp.cont.ptr := 0 }) (State.contFrame_dress
      { s with dp.cont.frame := s.dp.cont.frame.set s.dp.cont.ptr xm, dp.cont.ptr := s.dp.cont.ptr + 1 } o)
  · rfl

theorem State.acquire_blind (xm : Cplx) : Blind fun s => s.acquire xm := by
  intro s o
  have hact : (s.dress o).act = s.act := rfl
  simp only [State.acquire, hact]
  split
  · exact congrArg Except.ok (State.contStep_dress s o xm)
  · exact State.burstStep_blind xm s o

/-! ### The whole sample step -/

/-- The symbol instant, where there is one, the gate and the counters. -/
theorem State.sampleEnd_blind (instant : Bool) (zc zd : Cplx) : Blind fun s =>
    (if instant then s.stageSymbol zc zd else .ok s) >>= fun s10 => s10.gateStep >>= fun s11 => .ok s11.stageCount := by
  have hsym : Blind fun s => if instant then s.stageSymbol zc zd else .ok s := by
    intro s o
    cases instant
    · rfl
    · exact State.stageSymbol_blind zc zd s o
  have hcount : Blind fun s => .ok s.stageCount := fun s o => congrArg Except.ok (State.stageCount_dress s o)
  exact hsym.bind (State.gateStep_blind.bind hcount)

theorem State.sampleCore_blind (i q : Int) : Blind fun s => s.sampleCore i q := by
  intro s o
  simp only [State.sampleCore, State.stageAgc_dress, State.stageMix_dress]
  generalize (s.stageAgc (ingress i q)).2.stageMix (s.stageAgc (ingress i q)).1 = m
  have hacq := State.acquire_blind m.1 m.2 o
  dsimp only at hacq
  rw [hacq]
  cases m.2.acquire m.1 with
  | error c => rfl
  | ok s3 =>
    show (s3.dress o).trackSample m.1 >>= _ = Except.map _ (s3.trackSample m.1 >>= _)
    rw [State.trackSample_dress]
    cases s3.trackSample m.1 with
    | error c => rfl
    | ok tr =>
      obtain ⟨⟨zc, zd⟩, instant, s9⟩ := tr
      cases instant
      · exact State.sampleEnd_blind false zc zd s9 o
      · exact State.sampleEnd_blind true zc zd s9 o

/-- A sample leaves the state outside the datapath as it was. -/
theorem State.sampleCore_outer {s t : State} {i q : Int} (h : s.sampleCore i q = .ok t) : t.outer = s.outer :=
  (State.sampleCore_blind i q).outer_eq h

/-! ### A SAMPLE on states that differ outside the datapath (R34, R37, R42) -/

/-- The state with other pending settings, CTRL, operands and results. -/
def State.withRegs (s : State) (p : Settings) (c : BitVec 4) (a0 a1 r0 r1 : F64) : State :=
  { s with pend := p, ctrl := c, arg0 := a0, arg1 := a1, res0 := r0, res1 := r1 }

section OtherRegs

variable (p : Settings) (c : BitVec 4) (a0 a1 r0 r1 : F64)

/-- Dressing a state as it is but for these registers sets these registers. -/
theorem State.dress_withRegs {s t : State} (h : t.outer = s.outer) :
    t.dress (s.withRegs p c a0 a1 r0 r1).outer = t.withRegs p c a0 a1 r0 r1 := by
  obtain ⟨hovr, hfault, herr, hinfo, hbus⟩ : t.ovr = s.ovr ∧ t.fault = s.fault ∧ t.err = s.err ∧ t.errInfo = s.errInfo ∧ t.bus = s.bus :=
    ⟨congrArg Outer.ovr h, congrArg Outer.fault h, congrArg Outer.err h, congrArg Outer.errInfo h, congrArg Outer.bus h⟩
  simp only [State.dress, State.withRegs, State.outer, hovr, hfault, herr, hinfo, hbus]

theorem raiseFault_withRegs (k : FaultCode) (w : Word) (s : State) :
    raiseFault k w (s.withRegs p c a0 a1 r0 r1) = (raiseFault k w s).withRegs p c a0 a1 r0 r1 := by
  have hpush := State.push_dress { s with fault := true, err := BitVec.ofNat 8 k.code, errInfo := w }
    ({ s with fault := true, err := BitVec.ofNat 8 k.code, errInfo := w }.withRegs p c a0 a1 r0 r1).outer (.fault k w)
  exact hpush.trans (State.dress_withRegs p c a0 a1 r0 r1 (by simp [State.outer]))

theorem commit_withRegs (w : Word) (s t : State) (written : List F64) :
    commit w (s.withRegs p c a0 a1 r0 r1) (t.withRegs p c a0 a1 r0 r1) written =
      (commit w s t written).withRegs p c a0 a1 r0 r1 := by
  unfold commit
  split
  · rfl
  · exact raiseFault_withRegs p c a0 a1 r0 r1 .badArg w s

theorem sampleCore_withRegs (i q : Int) (s : State) :
    (s.withRegs p c a0 a1 r0 r1).sampleCore i q = (s.sampleCore i q).map (·.withRegs p c a0 a1 r0 r1) := by
  have hblind := State.sampleCore_blind i q s (s.withRegs p c a0 a1 r0 r1).outer
  dsimp only at hblind
  rw [State.dress_withRegs p c a0 a1 r0 r1 rfl] at hblind
  rw [hblind]
  cases h : s.sampleCore i q with
  | error k => rfl
  | ok t => exact congrArg Except.ok (State.dress_withRegs p c a0 a1 r0 r1 (State.sampleCore_outer h))

theorem runSample_withRegs (i q : Int) (s : State) :
    runSample i q (s.withRegs p c a0 a1 r0 r1) = (runSample i q s).withRegs p c a0 a1 r0 r1 := by
  have hfault : (s.withRegs p c a0 a1 r0 r1).fault = s.fault := rfl
  have hback : (s.withRegs p c a0 a1 r0 r1).backPressure = s.backPressure := rfl
  simp only [runSample, hfault, hback, sampleCore_withRegs]
  split
  · rfl
  split
  · rfl
  cases s.sampleCore i q with
  | error k => exact raiseFault_withRegs p c a0 a1 r0 r1 k _ s
  | ok t => exact commit_withRegs p c a0 a1 r0 r1 _ s t _

end OtherRegs

/-- Settles O54: the sample step commutes with putting other values in these registers. -/
theorem pendingSettingsAreInert : Obligations.PendingSettingsAreInert := by
  intro s t i q p c a0 a1 r0 r1 h
  obtain rfl : runSample i q s = t := Host.Outcome.next.inj h
  exact congrArg Host.Outcome.next (runSample_withRegs p c a0 a1 r0 r1 i q s)

end Sys2Proof.Machine
end

section
/-! SUPPORT. What a sample step leaves of the datapath, and what it keeps (45_sample_pipeline.md R350 to R356): statement O45. -/

namespace Sys2Proof.Machine

-- One theorem at a time: elaborated side by side, they ask for more threads than the memory limit allows.
set_option Elab.async false

open F64

/-! ### The still part of the datapath

`Datapath.still` puts at zero what a symbol instant, a lock, a loss or a report writes: CAR's motion, the moving parts of the gate,
the averages of the timing error and of the MSE, and EBNO. Those stages leave the rest of the datapath but for MIX's word and the
counters. -/

def Datapath.still (d : Datapath) : Datapath := { d with
  ted.y := zero, qgMse.y := zero, ebno := zero
  car := { d.car with phase := 0, ftw := 0, armed := false, latch := false }
  gate := { d.gate with
    st := .noSig, cd := 0, acqEl := 0, sinceLock := 0, symSince := 0, zpp := Cplx.zero, sb := [], carrier := zero } }

theorem State.sbPush_still (s : State) (x : BitVec 16) : (s.sbPush x).dp.still = s.dp.still := by
  simp only [State.sbPush]
  split
  · rw [State.push_dp]; rfl
  · rfl

theorem State.lockOn_still (s : State) (b : Bool) : (s.lockOn b).dp.still = s.dp.still := by
  rw [State.lockOn, State.sbPush_still, State.push_dp]
  cases b <;> rfl

/-- The gate step leaves the still part, but for MIX's word where a signal is lost (R328). -/
theorem State.gateStep_still {s t : State} (h : s.gateStep = .ok t) :
    ∃ w, t.dp.still = { s.dp.still with mix.ftw := w } ∧
      (w = s.dp.still.mix.ftw ∨ (s.dp.gate.st = .lock ∧ t.dp.gate.st = .noSig)) := by
  rcases State.gateStep_ok h with rfl | ⟨hst, n, st, hst', rfl⟩ | ⟨hst, c, rfl⟩ | ⟨hst, c, hl⟩
  · exact ⟨_, rfl, .inl rfl⟩
  · exact ⟨_, rfl, .inl rfl⟩
  · exact ⟨_, rfl, .inl rfl⟩
  · obtain ⟨w, rfl⟩ := State.lost_ok hl
    rw [State.push_dp]
    exact ⟨w, rfl, .inr ⟨hst, rfl⟩⟩

theorem State.stageCount_still (s : State) : s.stageCount.dp.still = { s.dp.still with sampleCnt := s.dp.still.sampleCnt + 1 } := by
  rcases s.stageCount_cases with h | ⟨e, h⟩ <;> rw [h]
  · rfl
  · rw [State.push_dp]; rfl

/-- A symbol instant counts one symbol and leaves the rest of the still part. -/
theorem State.stageSymbol_still {s t : State} {zc zd : Cplx} (h : s.stageSymbol zc zd = .ok t) :
    t.dp.still = { s.dp.still with symbolCnt := s.dp.still.symbolCnt + 1 } := by
  obtain ⟨o, m, ho, rfl⟩ := State.stageSymbol_ok h
  set u : State := { s with dp.car := o, dp.qgMse.y := m } with hu
  have hustill : u.dp.still = s.dp.still := by simp [hu, Datapath.still, ho]
  have hdec : (u.decodeSymbol zc zd).dp.still = u.dp.still := by
    rcases u.decodeSymbol_cases zc zd with h | ⟨-, x, y, -, -, h⟩ <;> rw [h]
    · rfl
    · rw [State.sbPush_still, State.sbPush_still]; rfl
  have hlock (v : State) : v.contLock.dp.still = v.dp.still := by
    rcases v.contLock_cases with h | ⟨-, h⟩ <;> rw [h]
    exact v.lockOn_still false
  have hcount (v : State) : v.countSymbol.dp.still = { v.dp.still with symbolCnt := v.dp.still.symbolCnt + 1 } := rfl
  rw [hlock, hcount, hdec, hustill]

/-! ### Acquisition -/

/-- The acquisition buffer has its length, and a fill has room (R63). -/
def Burst.Shaped (b : Burst) : Prop :=
  1 ≤ b.lb ∧ b.lb ≤ b.nacq ∧ 1 ≤ b.lt ∧ b.lt ≤ b.nacq ∧ b.buf.length = b.lb + b.lt ∧ b.ptr ≤ b.lb + b.lt ∧
    (b.st = .filling → b.ptr < b.lb + b.lt)

/-- The frame and the magnitudes have their length, and the frame has room (R64). -/
def Cont.Shaped (c : Cont) : Prop := c.frame.length = c.nc ∧ c.mags.length = c.nc ∧ c.ptr < c.nc

/-- The burst unit after a sample: the geometry of APPLY, the shape of the buffer, and no Verifying left behind (R249). -/
structure Burst.Follows (b' b : Burst) : Prop where
  lb : b'.lb = b.lb
  lt : b'.lt = b.lt
  nacq : b'.nacq = b.nacq
  dead : b'.dead = b.dead
  shaped : b.Shaped → b'.Shaped
  notVerifying : b.st ≠ .verifying → b'.st ≠ .verifying

/-- The continuous estimator after a sample. -/
structure Cont.Follows (c' c : Cont) : Prop where
  nc : c'.nc = c.nc
  shaped : c.Shaped → c'.Shaped

theorem Burst.Follows.refl (b : Burst) : b.Follows b := ⟨rfl, rfl, rfl, rfl, id, id⟩

theorem Burst.Follows.trans {b b' b'' : Burst} (h : b''.Follows b') (h' : b'.Follows b) : b''.Follows b :=
  ⟨h.lb.trans h'.lb, h.lt.trans h'.lt, h.nacq.trans h'.nacq, h.dead.trans h'.dead, h.shaped ∘ h'.shaped,
    h.notVerifying ∘ h'.notVerifying⟩

/-- The detector restarts the fill at 0, or leaves the buffer (R242, R243). -/
theorem Burst.detect_follows (b : Burst) (bt : F64) : (b.detect bt).Follows b := by
  simp only [Burst.detect]
  split
  · exact ⟨rfl, rfl, rfl, rfl, fun ⟨h1, h2, h3, h4, h5, _, _⟩ =>
      ⟨h1, h2, h3, h4, h5, Nat.zero_le _, fun _ => show 0 < b.lb + b.lt by omega⟩, fun _ => by simp⟩
  · exact ⟨rfl, rfl, rfl, rfl, id, id⟩

/-- A sample stored in the buffer: the fill goes on where there is room (R246). -/
theorem Burst.store_follows {b : Burst} (x : Cplx) {st : AcqState} (hfill : b.st = .filling) (hst : st ≠ .verifying)
    (hroom : st = .filling → b.ptr + 1 ≠ b.lb + b.lt) :
    Burst.Follows { b with buf := b.buf.set b.ptr x, ptr := b.ptr + 1, st := st } b := by
  refine ⟨rfl, rfl, rfl, rfl, ?_, fun _ => hst⟩
  rintro ⟨h1, h2, h3, h4, h5, -, h7⟩
  have hptr : b.ptr + 1 ≤ b.lb + b.lt := h7 hfill
  exact ⟨h1, h2, h3, h4, by rw [List.length_set]; exact h5, hptr, fun h => lt_of_le_of_ne hptr (hroom h)⟩

/-- A sample joined to the frame, or the last of one (R260). -/
theorem Cont.collect_follows {c : Cont} (x : Cplx) {p : Nat} {m : List F64} (n : Word) (hm : m.length = c.mags.length)
    (hp : p = 0 ∨ (p = c.ptr + 1 ∧ p ≠ c.nc)) :
    Cont.Follows { frame := c.frame.set c.ptr x, ptr := p, mags := m, settle := n, nc := c.nc } c := by
  refine ⟨rfl, ?_⟩
  rintro ⟨h1, h2, h3⟩
  exact ⟨by rw [List.length_set]; exact h1, hm.trans h2, show p < c.nc by omega⟩

/-- Verification writes MIX's word and ACQST, and nothing else of the still part (R249, R252). -/
theorem State.verify_still {s t : State} (h : s.verify = .ok t) :
    ∃ w st, (st = .rejected ∨ st = .locked) ∧ t.dp.still = { s.dp.still with mix.ftw := w, acq.st := st } := by
  rcases State.verify_ok h with rfl | ⟨-, lo, hi, hzb, b, hacc⟩
  · exact ⟨_, .rejected, .inl rfl, rfl⟩
  · obtain ⟨w, p, f, rfl⟩ := State.acceptActions_ok hacc
    refine ⟨w, .locked, .inr rfl, ?_⟩
    have hlocked (u : State) : ({ u with dp.acq.st := .locked } : State).dp.still = { u.dp.still with acq.st := .locked } := rfl
    rw [hlocked, State.lockOn_still, State.push_dp]
    rfl

/-- A fill stores one sample in the buffer, and ends filled, rejected or locked (R246). -/
theorem State.fillStep_still {s t : State} {xm : Cplx} (h : s.fillStep xm = .ok t) :
    ∃ w b, b.Follows s.dp.acq ∧ t.dp.still = { s.dp.still with mix.ftw := w, acq := b } := by
  rcases State.fillStep_ok h with ⟨-, rfl⟩ | ⟨hst, hfull, rfl⟩ | ⟨hst, hfull, hv⟩
  · exact ⟨_, _, .refl _, rfl⟩
  · exact ⟨_, _, Burst.store_follows xm (st := s.dp.acq.st) hst (by rw [hst]; decide) fun _ => hfull, rfl⟩
  · obtain ⟨w, st, hst', hstill⟩ := State.verify_still hv
    have hne : st ≠ .filling ∧ st ≠ .verifying := by rcases hst' with rfl | rfl <;> decide
    exact ⟨w, _, Burst.store_follows xm hst hne.2 fun h => absurd h hne.1, hstill⟩

theorem State.burstStep_still {s t : State} {xm : Cplx} (h : s.burstStep xm = .ok t) :
    ∃ ys yl w b, b.Follows s.dp.acq ∧
      t.dp.still = { s.dp.still with btS.y := ys, btL.y := yl, mix.ftw := w, acq := b } := by
  obtain ⟨ys, yl, bt, hfill⟩ := State.burstStep_ok h
  obtain ⟨w, b, hb, hstill⟩ := State.fillStep_still hfill
  exact ⟨ys, yl, w, b, hb.trans (s.dp.acq.detect_follows bt), hstill⟩

theorem State.contStep_still (s : State) (xm : Cplx) :
    ∃ c e, c.Follows s.dp.cont ∧ (s.contStep xm).dp.still = { s.dp.still with cont := c, freqEst := e } := by
  rcases s.contStep_cases xm with ⟨hfull, h⟩ | ⟨m, n, e, hm, h⟩ <;> rw [h]
  · exact ⟨_, _, Cont.collect_follows xm s.dp.cont.settle rfl (.inr ⟨rfl, hfull⟩), rfl⟩
  · rw [State.push_dp]
    exact ⟨_, e, Cont.collect_follows xm n hm (.inl rfl), rfl⟩

/-! ### The whole sample step -/

/-- What a sample puts into the still part: the AGC's estimate, MIX's word, the acquisition units, the values taken by the filter,
the delay lines and the resonator, TIM's nudge, and the count of symbols. -/
structure SampleParts where
  agcM : F64
  ftw : Word
  btS : F64
  btL : F64
  acq : Burst
  cont : Cont
  freqEst : F64
  xc : Cplx
  y : Cplx
  u : F64
  r : F64
  nudge : Word
  symbolCnt : DWord

/-- The still part after a sample (R350). -/
def Datapath.sampled (d : Datapath) (p : SampleParts) : Datapath := { d.still with
  agc.m := p.agcM
  mix := { d.mix.advance with ftw := p.ftw }
  btS.y := p.btS
  btL.y := p.btL
  acq := p.acq
  cont := p.cont
  freqEst := p.freqEst
  mf := d.mf.push d.nmf p.xc
  dlSym := d.dlSym.push p.y
  res := d.res.push p.u
  dlTim := d.dlTim.push p.r
  tim := (d.tim.advance.nudge p.nudge).consumeLatch
  symbolCnt := p.symbolCnt
  sampleCnt := d.sampleCnt + 1 }

/-- How those parts follow from the state before: only the acquisition unit of the mode in force moves, MIX's word changes with an
acceptance or a loss alone, and at most one symbol is counted. -/
structure SampleParts.Follows (p : SampleParts) (s t : State) : Prop where
  acq : p.acq.Follows s.dp.acq
  cont : p.cont.Follows s.dp.cont
  burst : s.act.modeCont = false → p.cont = s.dp.cont ∧ p.freqEst = s.dp.freqEst
  continuous : s.act.modeCont = true → p.acq = s.dp.acq ∧ p.btS = s.dp.btS.y ∧ p.btL = s.dp.btL.y ∧
    (p.ftw = s.dp.mix.ftw ∨ (t.dp.gate.st = .noSig ∧ s.dp.gate.st = .lock))
  symbol : p.symbolCnt = s.dp.symbolCnt ∨ p.symbolCnt = s.dp.symbolCnt + 1

/-- The still part after acquisition: one unit has moved on, the one of the mode in force (R240, R260). -/
theorem State.acquire_still {s t : State} {xm : Cplx} (h : s.acquire xm = .ok t) :
    ∃ ys yl w b c e, t.dp.still = { s.dp.still with
        btS.y := ys, btL.y := yl, mix.ftw := w, acq := b, cont := c, freqEst := e } ∧
      b.Follows s.dp.acq ∧ c.Follows s.dp.cont ∧ (s.act.modeCont = false → c = s.dp.cont ∧ e = s.dp.freqEst) ∧
      (s.act.modeCont = true → b = s.dp.acq ∧ ys = s.dp.btS.y ∧ yl = s.dp.btL.y ∧ w = s.dp.mix.ftw) := by
  rcases State.acquire_ok h with ⟨hm, rfl⟩ | ⟨hm, hb⟩
  · obtain ⟨c, e, hc, hstill⟩ := s.contStep_still xm
    exact ⟨_, _, _, _, c, e, hstill, .refl _, hc, fun h => by simp [hm] at h, fun _ => ⟨rfl, rfl, rfl, rfl⟩⟩
  · obtain ⟨ys, yl, w, b, hfol, hstill⟩ := State.burstStep_still hb
    exact ⟨ys, yl, w, b, _, _, hstill, hfol, ⟨rfl, id⟩, fun _ => ⟨rfl, rfl⟩, fun h => by simp [hm] at h⟩

theorem State.trackSample_still {s : State} {xm : Cplx} {tr : (Cplx × Cplx) × (Bool × State)} (h : s.trackSample xm = .ok tr) :
    ∃ (x y : Cplx) (u r : F64) (d : Word), tr.2.2.dp.still = { s.dp.still with
      mf := s.dp.still.mf.push s.dp.still.nmf x, dlSym := s.dp.still.dlSym.push y, res := s.dp.still.res.push u
      dlTim := s.dp.still.dlTim.push r, tim := (s.dp.still.tim.advance.nudge d).consumeLatch } := by
  obtain ⟨x, y, u, r, e, d, htr⟩ := State.trackSample_ok h
  refine ⟨x, y, u, r, d, ?_⟩
  rw [htr]
  simp [Datapath.still, Ema.push]

/-- What a sample that goes through leaves of the datapath (R350). -/
theorem State.sampleCore_still {s t : State} {i q : Int} (h : s.sampleCore i q = .ok t) (hroom : s.fifo.length ≤ 60) :
    ∃ p : SampleParts, p.Follows s t ∧ t.dp.still = s.dp.sampled p := by
  obtain ⟨m, xm, s3, tr, s10, s11, h3, htr, h10, h11, rfl⟩ := State.sampleCore_stages h
  obtain ⟨ys, yl, w, b, c, e, hstill3, hb, hc, hburst, hcont⟩ := State.acquire_still h3
  obtain ⟨x, y, u, r, d, hstill9⟩ := State.trackSample_still htr
  obtain ⟨n, hn, hstill10⟩ : ∃ n, (n = tr.2.2.dp.still.symbolCnt ∨ n = tr.2.2.dp.still.symbolCnt + 1) ∧
      s10.dp.still = { tr.2.2.dp.still with symbolCnt := n } := by
    rcases h10 with rfl | h10
    · exact ⟨_, .inl rfl, rfl⟩
    · exact ⟨_, .inr rfl, State.stageSymbol_still h10⟩
  obtain ⟨w', hstill11, hw'⟩ := State.gateStep_still h11
  rw [hstill9, hstill3] at hn
  rw [hstill10, hstill9, hstill3] at hw'
  refine ⟨⟨m, w', ys, yl, b, c, e, x, y, u, r, d, n⟩, ⟨hb, hc, hburst, fun hm => ?_, hn⟩, ?_⟩
  · obtain ⟨hb', hys, hyl, hw⟩ := hcont hm
    refine ⟨hb', hys, hyl, hw'.imp (·.trans (hw.trans s.dp.mix.advance_ftw)) ?_⟩
    rintro ⟨hlock, hno⟩
    refine ⟨s11.stageCount_emits.2.trans hno, ?_⟩
    rcases locksOrKeeps_of_stages h3 htr h10 hroom with ⟨-, hst⟩ | ⟨-, hst, -⟩
    · exact hst.symm.trans hlock
    · rw [hst] at hlock
      cases hlock
  · rw [State.stageCount_still, hstill11, hstill10, hstill9, hstill3]
    rfl

/-- The active settings stay (R44). -/
theorem State.sampleCore_act {s t : State} {i q : Int} (h : s.sampleCore i q = .ok t) : t.act = s.act := by
  obtain ⟨c, y, r, hacq, ht⟩ := State.sampleCore_cells h
  have hc : c.act = s.act := by cases hacq <;> rfl
  exact (congrArg Cells.act ht).trans hc

/-! ### The frame of a SAMPLE (R351, R356) -/

/-- A SAMPLE that leaves a block unfaulted with at most 60 records ran the sample step. -/
theorem runSample_accepted {s : State} {i q : Int} (hf : s.fault = false) (hroom : s.fifo.length ≤ 60)
    (ht : (runSample i q s).fault = false) : s.sampleCore i q = .ok (runSample i q s) := by
  have hback := backPressure_eq_false_iff.mpr hroom
  rcases runSample_cases i q s with ⟨h, -⟩ | ⟨-, h, -⟩ | ⟨-, -, c, -, e⟩ | ⟨-, -, t, -, -, e⟩ | ⟨-, -, t, h, -, e⟩
  · rw [h] at hf; cases hf
  · rw [h] at hback; cases hback
  · rw [e, raiseFault_fault] at ht; cases ht
  · rw [e, raiseFault_fault] at ht; cases ht
  · rw [e, h]

/-- Settles O45: refused, OVR alone is set; accepted, the still part and the state outside the datapath say what is kept. -/
theorem sampleFrame : Obligations.SampleFrame := by
  intro s t i q hf h
  obtain rfl : runSample i q s = t := Host.Outcome.next.inj h
  refine ⟨fun hfull => ?_, fun hroom ht => ?_⟩
  · have hback : s.backPressure = true := decide_eq_true hfull
    rw [runSample, hf, hback]
    rfl
  have hcore := runSample_accepted hf hroom ht
  have ho := State.sampleCore_outer hcore
  obtain ⟨p, hp, hd⟩ := State.sampleCore_still hcore hroom
  have hkeep {α : Type} (f : Datapath → α) : f (runSample i q s).dp.still = f (s.dp.sampled p) := congrArg f hd
  have htim : (s.dp.sampled p).tim.ftw = s.dp.tim.ftw ∧ (s.dp.sampled p).tim.point = s.dp.tim.point := by
    simp [Datapath.sampled]
  refine ⟨congrArg Outer.arg0 ho, congrArg Outer.arg1 ho, congrArg Outer.res0 ho, congrArg Outer.res1 ho, congrArg Outer.pend ho,
    congrArg Outer.ctrl ho, State.sampleCore_act hcore, congrArg Outer.ovr ho, congrArg Outer.err ho, congrArg Outer.errInfo ho,
    congrArg Outer.bus ho, hkeep (·.sampleCnt), ?_, (hkeep (·.mix.phase)).trans s.dp.mix.advance_phase, hkeep (·.tim.latch),
    (hkeep (·.tim.ftw)).trans htim.1, (hkeep (·.tim.point)).trans htim.2, (hkeep (·.mix.point)).trans s.dp.mix.advance_point,
    hkeep (·.car.point), hkeep (·.sps), hkeep (·.nmf), hkeep (·.dsym), hkeep (·.mf.taps), hkeep (·.agc.alpha),
    hkeep (·.res.a1), hkeep (·.res.a2), hkeep (·.res.g), hkeep (·.btS.alpha), hkeep (·.btL.alpha), hkeep (·.ted.alpha),
    hkeep (·.qgMse.alpha), (hkeep (·.acq.lb)).trans hp.acq.lb, (hkeep (·.acq.lt)).trans hp.acq.lt,
    (hkeep (·.acq.nacq)).trans hp.acq.nacq, (hkeep (·.cont.nc)).trans hp.cont.nc, hkeep (·.gate.qgCd), hkeep (·.gate.qgDelay),
    hkeep (·.gate.report), hkeep (·.timRamp), hkeep (·.carFstart), (hkeep (·.acq.dead)).trans hp.acq.dead, fun hm => ?_, fun hm => ?_⟩
  · exact hp.symbol.imp (hkeep (·.symbolCnt)).trans (hkeep (·.symbolCnt)).trans
  · obtain ⟨hc, he⟩ := hp.burst hm
    exact ⟨(hkeep (·.cont)).trans hc, (hkeep (·.freqEst)).trans he⟩
  · obtain ⟨ha, hys, hyl, hw⟩ := hp.continuous hm
    exact ⟨(hkeep (·.acq)).trans ha, (hkeep (·.btS)).trans (congrArg (Ema.mk _) hys),
      (hkeep (·.btL)).trans (congrArg (Ema.mk _) hyl), hw.imp_left (hkeep (·.mix.ftw)).trans⟩

end Sys2Proof.Machine
end

section
/-! SUPPORT. Every step keeps the shape of the state and the views of the acquisition mode (10_state.md R38 to R67; 46_control.md
R372): statements O55 and O58. -/

namespace Sys2Proof.Machine

-- One theorem at a time: elaborated side by side, they ask for more threads than the memory limit allows.
set_option Elab.async false

open F64

/-! ### The FIFO and the soft-bit buffer (R67, R338) -/

/-- At most 64 records, at most 11 soft elements, and each a byte or the sentinel. -/
structure State.Queued (s : State) : Prop where
  fifo : s.fifo.length ≤ 64
  soft : s.dp.gate.sb.length < 12
  elements : ∀ x ∈ s.dp.gate.sb, x.toNat ≤ 256

theorem State.Queued.congr {s t : State} (h : s.Queued) (hf : t.fifo = s.fifo) (hb : t.dp.gate.sb = s.dp.gate.sb) : t.Queued :=
  ⟨hf ▸ h.fifo, hb ▸ h.soft, hb ▸ h.elements⟩

/-- A push into a full FIFO drops the record (R67). -/
theorem State.Queued.push {s : State} (h : s.Queued) (e : Event) : (s.push e).Queued := by
  have hfifo := h.fifo
  rcases s.push_cases e with ⟨-, heq⟩ | ⟨hroom, heq⟩ <;> rw [heq]
  · exact h.congr rfl rfl
  · have hlen : s.fifo.length ≠ 64 := hroom
    exact ⟨by rw [List.length_append, List.length_singleton]; omega, h.soft, h.elements⟩

/-- The twelfth element empties the soft-bit buffer (R338). -/
theorem State.Queued.sbPush {s : State} (h : s.Queued) {x : BitVec 16} (hx : x.toNat ≤ 256) : (s.sbPush x).Queued := by
  have hsoft := h.soft
  have hlen : (s.dp.gate.sb ++ [x]).length = s.dp.gate.sb.length + 1 := by simp
  simp only [State.sbPush]
  split
  · exact State.Queued.push (s := { s with dp.gate.sb := [] })
      ⟨h.fifo, Nat.zero_lt_succ _, fun _ hy => absurd hy List.not_mem_nil⟩ _
  case isFalse hpart =>
    have hpart' : (s.dp.gate.sb ++ [x]).length ≠ 12 := hpart
    refine ⟨h.fifo, show (s.dp.gate.sb ++ [x]).length < 12 by omega, fun y hy => ?_⟩
    rcases List.mem_append.mp hy with hy | hy
    · exact h.elements y hy
    · exact List.mem_singleton.mp hy ▸ hx

theorem Emits.queued {p a n : Nat} {s t : State} (h : Emits p a n s t) (hs : s.Queued) : t.Queued := by
  induction h with
  | still hf hb => exact hs.congr hf hb
  | event u e he hf hb => exact (hs.congr hf hb).push _
  | present u idx b h hf hb => exact (hs.congr hf hb).push _
  | absent u idx b h hf hb => exact (hs.congr hf hb).push _
  | soft u hx hf hb => exact (hs.congr hf hb).sbPush hx
  | trans h h' ih ih' => exact ih' (ih hs)

/-! ### The shape of the datapath (R55 to R64) -/

/-- Every buffer has its length and every pointer lies inside, no Verifying is left, and NC is 2^FFTP. -/
structure Datapath.Formed (d : Datapath) (fftp : Nat) : Prop where
  mf : 1 ≤ d.nmf ∧ d.mf.taps.length = d.nmf ∧ d.mf.hr.length = d.nmf ∧ d.mf.hi.length = d.nmf
  dlTim : d.dlTim.buf.length = d.nmf ∧ d.dlTim.ptr < d.nmf
  dlSym : 1 ≤ d.dsym ∧ d.dlSym.buf.length = d.dsym ∧ d.dlSym.ptr < d.dsym
  acq : d.acq.Shaped
  notVerifying : d.acq.st ≠ .verifying
  cont : d.cont.Shaped
  nc : d.cont.nc = 2 ^ fftp
  report : 1 ≤ d.gate.report
  qgCd : 1 ≤ d.gate.qgCd

/-- FAULT is set exactly when ERR holds a code, and the codes are 1 to 5 (R40, R400). -/
def State.Coded (s : State) : Prop := s.err.toNat ≤ 5 ∧ (s.fault = true ↔ s.err ≠ 0)

/-- The shape of a state, part by part. -/
structure State.Formed (s : State) : Prop where
  queued : s.Queued
  dp : s.dp.Formed s.act.fftp
  fftp : 4 ≤ s.act.fftp ∧ s.act.fftp ≤ 16
  coded : s.Coded

theorem State.wf_iff {s : State} : s.WF ↔ s.Formed := by
  constructor
  · rintro ⟨hfifo, ⟨hmf, htim, hsym, hacq, hcont, hsoft, hrep, hcd⟩, hver, ⟨hlo, hhi, hnc⟩, hel, hcoded⟩
    exact ⟨⟨hfifo, hsoft, hel⟩, ⟨hmf, htim, hsym, hacq, hver, hcont, hnc, hrep, hcd⟩, ⟨hlo, hhi⟩, hcoded⟩
  · rintro ⟨⟨hfifo, hsoft, hel⟩, ⟨hmf, htim, hsym, hacq, hver, hcont, hnc, hrep, hcd⟩, ⟨hlo, hhi⟩, hcoded⟩
    exact ⟨hfifo, ⟨hmf, htim, hsym, hacq, hcont, hsoft, hrep, hcd⟩, hver, ⟨hlo, hhi, hnc⟩, hel, hcoded⟩

/-- The shape rests on the still part alone. -/
theorem Datapath.Formed.of_still {d d' : Datapath} {k : Nat} (h : d.Formed k) (hs : d'.still = d) : d'.Formed k := by
  subst hs
  exact ⟨h.mf, h.dlTim, h.dlSym, h.acq, h.notVerifying, h.cont, h.nc, h.report, h.qgCd⟩

/-! ### The units that take a value keep their lengths (R190, R211) -/

theorem Datapath.Formed.mf_push {d : Datapath} {k : Nat} (h : d.Formed k) (x : Cplx) :
    (d.mf.push d.nmf x).taps.length = d.nmf ∧ (d.mf.push d.nmf x).hr.length = d.nmf ∧ (d.mf.push d.nmf x).hi.length = d.nmf := by
  obtain ⟨-, htaps, hhr, hhi⟩ := h.mf
  exact ⟨htaps, shiftIn_length _ _ _ hhr, shiftIn_length _ _ _ hhi⟩

theorem DelayLine.push_formed {α : Type} {d : DelayLine α} {n : Nat} (h : d.buf.length = n ∧ d.ptr < n) (x : α) :
    (d.push x).buf.length = n ∧ (d.push x).ptr < n := by
  obtain ⟨rfl, hptr⟩ := h
  exact ⟨d.push_length x, d.push_ptr_lt x (Nat.zero_lt_of_lt hptr)⟩

theorem Datapath.Formed.sampled {s t : State} {k : Nat} (h : s.dp.Formed k) {p : SampleParts} (hp : p.Follows s t) :
    (s.dp.sampled p).Formed k where
  mf := ⟨h.mf.1, h.mf_push p.xc⟩
  dlTim := DelayLine.push_formed h.dlTim p.r
  dlSym := ⟨h.dlSym.1, DelayLine.push_formed h.dlSym.2 p.y⟩
  acq := hp.acq.shaped h.acq
  notVerifying := hp.acq.notVerifying h.notVerifying
  cont := hp.cont.shaped h.cont
  nc := hp.cont.nc.trans h.nc
  report := h.report
  qgCd := h.qgCd

/-! ### What APPLY builds (R371, R372) -/

theorem clampFftPower_range (w : Word) : 4 ≤ clampFftPower w ∧ clampFftPower w ≤ 16 := by
  have hmin : (params.fftPowMin : Int) = 4 := rfl
  have hmax : (params.fftPowMax : Int) = 16 := rfl
  rw [clampFftPower, hmin, hmax]
  omega

/-- A segment of the acquisition buffer has a cell, and at most NACQ (R244). -/
theorem segmentOf_range {n : Nat} (hn : 1 ≤ n) (syms sps : F64) : 1 ≤ segmentOf n syms sps ∧ segmentOf n syms sps ≤ n :=
  ⟨le_min hn (lengthOf_pos _), min_le_left _ _⟩

theorem burstOf_shaped (sps : F64) : (burstOf sps).Shaped := by
  obtain ⟨hlb, hlb'⟩ := segmentOf_range (n := 2 ^ params.acqFftPow) Nat.one_le_two_pow params.acqBaseSyms sps
  obtain ⟨hlt, hlt'⟩ := segmentOf_range (n := 2 ^ params.acqFftPow) Nat.one_le_two_pow params.acqTopSyms sps
  exact ⟨hlb, hlb', hlt, hlt', List.length_replicate, Nat.zero_le _, nofun⟩

theorem contOf_shaped (k : Nat) : (contOf k).Shaped :=
  ⟨List.length_replicate, List.length_replicate, Nat.two_pow_pos k⟩

theorem rebuild_formed (a : Active) : (rebuild a).Formed a.fftp where
  mf := ⟨lengthOf_pos _, by simp [rebuild, mfTaps], List.length_replicate, List.length_replicate⟩
  dlTim := ⟨List.length_replicate, lengthOf_pos _⟩
  dlSym := ⟨lengthOf_pos _, List.length_replicate, lengthOf_pos _⟩
  acq := burstOf_shaped _
  notVerifying := nofun
  cont := contOf_shaped _
  nc := rfl
  report := lengthOf_pos _
  qgCd := lengthOf_pos _

/-- The state after APPLY's clamp and rebuild. -/
theorem State.Formed.applied {s : State} (h : s.Formed) : s.applied.Formed where
  queued := ⟨h.queued.fifo, Nat.zero_lt_succ _, fun _ hy => absurd hy List.not_mem_nil⟩
  dp := rebuild_formed _
  fftp := clampFftPower_range _
  coded := h.coded

/-! ### Every step (R40, R55 to R67) -/

theorem State.Formed.push {s : State} (h : s.Formed) (e : Event) : (s.push e).Formed where
  queued := h.queued.push e
  dp := by rw [State.push_dp, State.push_act]; exact h.dp
  fftp := by rw [State.push_act]; exact h.fftp
  coded := by rw [State.Coded, State.push_err, State.push_fault]; exact h.coded

theorem raiseFault_formed {s : State} (h : s.Formed) (c : FaultCode) (info : Word) : (raiseFault c info s).Formed := by
  have hcode : (BitVec.ofNat 8 c.code).toNat ≤ 5 ∧ BitVec.ofNat 8 c.code ≠ 0 := by cases c <;> decide
  exact State.Formed.push (s := { s with fault := true, err := BitVec.ofNat 8 c.code, errInfo := info })
    { h with queued := h.queued.congr rfl rfl, coded := ⟨hcode.1, fun _ => hcode.2, fun _ => rfl⟩ } _

theorem setOsc_formed {s : State} (h : s.Formed) (k : OscId) (o : Osc) : (s.setOsc k o).Formed := by
  cases k <;> exact { h with queued := h.queued.congr rfl rfl, dp := { h.dp with } }

theorem writeReg_formed {s : State} (h : s.Formed) (r : Reg) (v : Word) : (writeReg s r v).Formed := by
  cases r with
  | oscPhase k => exact setOsc_formed h k _
  | oscFtw k => exact setOsc_formed h k _
  | oscPoint k => exact setOsc_formed h k _
  | evPop =>
    have hpop : s.popEvent.fifo.length ≤ 64 := by
      rw [State.popEvent_fifo, List.length_tail]
      exact (Nat.sub_le _ _).trans h.queued.fifo
    exact { h with queued := ⟨hpop, h.queued.soft, h.queued.elements⟩ }
  | _ => exact { h with queued := h.queued.congr rfl rfl }

theorem State.Commanded.formed {s t : State} (hc : s.Commanded t) (h : s.Formed) : t.Formed := by
  cases hc with
  | osc k o => exact setOsc_formed h k o
  | passed k o x => exact { setOsc_formed h k o with queued := (setOsc_formed h k o).queued.congr rfl rfl }
  | result x | results z => exact { h with queued := h.queued.congr rfl rfl }
  | dlTim x y =>
    exact { h with queued := h.queued.congr rfl rfl, dp := { h.dp with dlTim := DelayLine.push_formed h.dp.dlTim x } }
  | dlSym x y =>
    exact { h with
      queued := h.queued.congr rfl rfl
      dp := { h.dp with dlSym := ⟨h.dp.dlSym.1, DelayLine.push_formed h.dp.dlSym.2 x⟩ } }
  | mf x y => exact { h with queued := h.queued.congr rfl rfl, dp := { h.dp with mf := ⟨h.dp.mf.1, h.dp.mf_push x⟩ } }
  | ema k x y => cases k <;> exact { h with queued := h.queued.congr rfl rfl, dp := { h.dp with } }
  | res x y | agc x y => exact { h with queued := h.queued.congr rfl rfl, dp := { h.dp with } }

/-- A sample that goes through. -/
theorem State.sampleCore_formed {s t : State} {i q : Int} (h : s.sampleCore i q = .ok t) (hroom : s.fifo.length ≤ 60)
    (hs : s.Formed) : t.Formed := by
  obtain ⟨p, hp, hd⟩ := State.sampleCore_still h hroom
  obtain ⟨np, na, n, hem⟩ := (State.sampleCore_edge h hroom).emits
  have hact := State.sampleCore_act h
  have hout := State.sampleCore_outer h
  have hcoded : t.fault = s.fault ∧ t.err = s.err := ⟨congrArg Outer.fault hout, congrArg Outer.err hout⟩
  exact {
    queued := hem.queued hs.queued
    dp := by rw [hact]; exact (hs.dp.sampled hp).of_still hd
    fftp := by rw [hact]; exact hs.fftp
    coded := by rw [State.Coded, hcoded.1, hcoded.2]; exact hs.coded }

theorem reset_formed (s : State) : (resetAction s).Formed where
  queued := ⟨Nat.zero_le _, Nat.zero_lt_succ _, fun _ hy => absurd hy List.not_mem_nil⟩
  dp := rebuild_formed _
  fftp := clampFftPower_range defaultSettings.fftPower
  coded := ⟨Nat.zero_le _, by simp [State.resetAt]⟩

theorem State.Executed.formed {s t : State} {i : Instr} (he : s.Executed i t) (h : s.Formed) : t.Formed := by
  cases he with
  | kept i => exact h
  | faulted i c info => exact raiseFault_formed h c info
  | applied =>
    unfold State.applyEvent
    split
    · exact h.applied.push _
    · exact h.applied
  | reset => exact reset_formed s
  | flushed => exact { h with queued := ⟨Nat.zero_le _, h.queued.soft, h.queued.elements⟩ }
  | commanded i hc => exact hc.formed h
  | overrun i q => exact { h with queued := h.queued.congr rfl rfl }
  | sampled i q hb hc => exact State.sampleCore_formed hc (backPressure_eq_false_iff.mp hb) h

/-- Settles O55: each part of the shape is kept by faults, by writes of registers and by every instruction. -/
theorem shapeIsKept : Obligations.ShapeIsKept := by
  intro s t hs hstep
  have hparts : KeptByParts State.Formed :=
    { bus := fun _ _ h => { h with queued := h.queued.congr rfl rfl }
      fault := fun _ c info h => raiseFault_formed h c info
      write := fun _ r v h => writeReg_formed h r v
      exec := fun _ _ _ h he => he.formed h }
  exact State.wf_iff.mpr (hparts.step (State.wf_iff.mp hs) hstep)

/-! ### The views of the acquisition mode (R47, R53) -/

/-- The views of the other mode's registers rest on the mode, the acquisition units and FREQ_EST. -/
theorem State.ModeViews.congr {s t : State} (h : s.ModeViews) (ha : t.act = s.act) (hacq : t.dp.acq = s.dp.acq)
    (hcont : t.dp.cont = s.dp.cont) (hf : t.dp.freqEst = s.dp.freqEst) : t.ModeViews := by
  rw [State.ModeViews, ha, hacq, hcont, hf]
  exact h

/-- What rebuild makes meets the views of either mode. -/
theorem modeViews_of_rebuild {s : State} {a : Active} (h : s.dp = rebuild a) : s.ModeViews := by
  rw [State.ModeViews, h]
  split
  · exact ⟨rfl, rfl, rfl⟩
  · exact ⟨rfl, rfl⟩

theorem setOsc_modeViews {s : State} (h : s.ModeViews) (k : OscId) (o : Osc) : (s.setOsc k o).ModeViews := by
  cases k <;> exact h

theorem writeReg_modeViews {s : State} (h : s.ModeViews) (r : Reg) (v : Word) : (writeReg s r v).ModeViews := by
  cases r with
  | oscPhase k => exact setOsc_modeViews h k _
  | oscFtw k => exact setOsc_modeViews h k _
  | oscPoint k => exact setOsc_modeViews h k _
  | _ => exact h

theorem State.Commanded.modeViews {s t : State} (hc : s.Commanded t) (h : s.ModeViews) : t.ModeViews := by
  cases hc with
  | osc k o => exact setOsc_modeViews h k o
  | passed k o x => exact setOsc_modeViews h k o
  | ema k x y => cases k <;> exact h
  | _ => exact h

/-- A sample moves the acquisition unit of the mode in force alone (R240, R260). -/
theorem State.sampleCore_modeViews {s t : State} {i q : Int} (hc : s.sampleCore i q = .ok t) (hroom : s.fifo.length ≤ 60)
    (h : s.ModeViews) : t.ModeViews := by
  obtain ⟨p, hp, hd⟩ := State.sampleCore_still hc hroom
  have hacq : t.dp.acq = p.acq := congrArg Datapath.acq hd
  have hcont : t.dp.cont = p.cont := congrArg Datapath.cont hd
  have hfreq : t.dp.freqEst = p.freqEst := congrArg Datapath.freqEst hd
  rw [State.ModeViews, State.sampleCore_act hc, hacq, hcont, hfreq]
  cases hm : s.act.modeCont
  · obtain ⟨hc', he⟩ := hp.burst hm
    rw [hc', he]
    simpa [State.ModeViews, hm] using h
  · rw [(hp.continuous hm).1]
    simpa [State.ModeViews, hm] using h

theorem State.Executed.modeViews {s t : State} {i : Instr} (he : s.Executed i t) (h : s.ModeViews) : t.ModeViews := by
  cases he with
  | kept i => exact h
  | faulted i c info => exact h.congr (by simp) (by simp) (by simp) (by simp)
  | applied =>
    refine modeViews_of_rebuild (a := activeOf s.pend s.ctrl) ?_
    unfold State.applyEvent
    split
    · rw [State.push_dp]; rfl
    · rfl
  | reset => exact modeViews_of_rebuild rfl
  | flushed => exact h
  | commanded i hc => exact hc.modeViews h
  | overrun i q => exact h
  | sampled i q hb hc => exact State.sampleCore_modeViews hc (backPressure_eq_false_iff.mp hb) h

/-- Settles O58: a sample moves the unit of the mode in force alone, and APPLY and RESET rebuild both. -/
theorem modeViewsAreKept : Obligations.ModeViewsAreKept := by
  intro s t hs hstep
  have hparts : KeptByParts State.ModeViews :=
    { bus := fun _ _ h => h
      fault := fun _ c info h => h.congr (by simp) (by simp) (by simp) (by simp)
      write := fun _ r v h => writeReg_modeViews h r v
      exec := fun _ _ _ h he => he.modeViews h }
  exact hparts.step hs hstep

end Sys2Proof.Machine
end

section
/-! SUPPORT. The registers of the window: what a read answers, what a write stores, and the fields of STATUS and NSTAT (10_state.md
R33 to R56, R73; 20_memory.md R85, R86; 46_control.md R377, R378): statements O7, O13 to O16 and O18. -/

namespace Sys2Proof.Machine

-- One theorem at a time: elaborated side by side, they ask for more threads than the memory limit allows.
set_option Elab.async false

/-! ### The register map (R33) -/

/-- The registers are aligned words below 0x178 (R33). -/
theorem offset_of_regAt {off : Nat} {r : Reg} (h : regAt off = some r) : off < 0x178 ∧ off % 4 = 0 := by
  have hmap : ∀ p ∈ regMap, p.1 < 0x178 ∧ p.1 % 4 = 0 := by decide +kernel
  exact hmap _ (mem_regMap_of_regAt h)

/-- A register stands at one offset (R33). -/
theorem regAt_injective {o o' : Nat} {r : Reg} (h : regAt o = some r) (h' : regAt o' = some r) : o = o' := by
  have hmap : ∀ p ∈ regMap, ∀ q ∈ regMap, p.2 = q.2 → p.1 = q.1 := by decide +kernel
  exact hmap _ (mem_regMap_of_regAt h) _ (mem_regMap_of_regAt h') rfl

theorem regAt_eq_none {off : Nat} (h : 0x178 ≤ off) : regAt off = none := by
  cases hr : regAt off with
  | none => rfl
  | some r => exact absurd (offset_of_regAt hr).1 (Nat.not_lt.mpr h)

theorem readWord_of_regAt {off : Nat} {r : Reg} (s : State) (h : regAt off = some r) : readWord s off = readReg s r := by
  rw [readWord, h]; rfl

theorem readWord_of_reserved {off : Nat} (s : State) (h : regAt off = none) : readWord s off = 0 := by
  rw [readWord, h]; rfl

/-! ### One aligned access (R83, R85, R377, R404) -/

section Access

variable {s : State} {off : Nat} {v : Word} {r : Reg} {rest : List Access}

/-- Faulted or not, an aligned read answers the word at its offset (R85). -/
theorem step_read32 (hp : s.bus.pending = read32 off :: rest) (ho : off < 0x1000) (hal : off % 4 = 0) :
    step s = .next ((s.takeAccess rest).respond (some (readWord (s.takeAccess rest) off))) := by
  have haligned : (read32 off).aligned32 = true := by simp [read32, Access.aligned32, hal]
  have hopen : (read32 off).acceptedWhileFaulted = true := by
    rw [Access.acceptedWhileFaulted, haligned]; rfl
  rw [step_access hp ho, takeAccess, hopen, haligned, Bool.not_true, Bool.and_false]
  rfl

theorem step_write32 (hp : s.bus.pending = write32 off v :: rest) (ho : off < 0x1000) (hal : off % 4 = 0)
    (hf : s.fault = false) : step s = writeWord off v (s.takeAccess rest) := by
  have haligned : (write32 off v).aligned32 = true := by simp [write32, Access.aligned32, hal]
  rw [step_access hp ho, takeAccess, State.takeAccess_fault, hf, haligned]
  rfl

/-- A write of a register whose writes run no instruction (R377). -/
theorem step_writeReg (hp : s.bus.pending = write32 off v :: rest) (hf : s.fault = false) (hr : regAt off = some r)
    (hcmd : r ≠ .cmd) (hsmp : r ≠ .sampleIn) : step s = .next (writeReg (s.takeAccess rest) r v) := by
  obtain ⟨hlt, hal⟩ := offset_of_regAt hr
  rw [step_write32 hp (hlt.trans (by decide)) hal hf]
  rcases writeWord_cases off v (s.takeAccess rest) with ⟨h, -⟩ | ⟨h, -⟩ | ⟨r', h, -, -, e⟩ | ⟨h, -⟩ <;>
    rw [hr] at h
  · exact absurd (Option.some.inj h) hcmd
  · exact absurd (Option.some.inj h) hsmp
  · rw [e, Option.some.inj h]
  · cases h

/-- While FAULT = 1 an access that is not one of the accepted ones has no effect (R404). -/
theorem step_refused {a : Access} (hp : s.bus.pending = a :: rest) (ho : a.off < 0x1000) (hf : s.fault = true)
    (ha : a.acceptedWhileFaulted = false) : step s = .next ((s.takeAccess rest).respond a.nullResp) := by
  rw [step_access hp ho, takeAccess, State.takeAccess_fault, hf, ha]
  rfl

end Access

/-! ### O7: reads -/

/-- Settles O7: an aligned read answers readWord, and each offset of R33 evaluates to its field. -/
theorem readsAnswerAndChangeNothing : Obligations.ReadsAnswerAndChangeNothing := by
  refine ⟨fun s rest off hp hal ho => step_read32 hp ho hal, fun s => ⟨?_, ?_, ?_⟩⟩
  · simp only [List.forall_mem_cons]
    exact ⟨⟨rfl, rfl⟩, ⟨rfl, rfl⟩, ⟨rfl, rfl⟩, ⟨rfl, rfl⟩, ⟨rfl, rfl⟩, ⟨rfl, rfl⟩, ⟨rfl, rfl⟩, ⟨rfl, rfl⟩, ⟨rfl, rfl⟩,
      ⟨rfl, rfl⟩, ⟨rfl, rfl⟩, ⟨rfl, rfl⟩, ⟨rfl, rfl⟩, ⟨rfl, rfl⟩, ⟨rfl, rfl⟩, ⟨rfl, rfl⟩, ⟨rfl, rfl⟩, ⟨rfl, rfl⟩,
      ⟨rfl, rfl⟩, ⟨rfl, rfl⟩, ⟨rfl, rfl⟩, ⟨rfl, rfl⟩, List.forall_mem_nil _⟩
  · simp only [List.forall_mem_cons]
    exact ⟨⟨rfl, rfl⟩, ⟨rfl, rfl⟩, List.forall_mem_nil _⟩
  · simp only [List.forall_mem_cons]
    exact ⟨rfl, rfl, rfl, rfl, rfl, rfl, rfl, rfl, rfl, rfl, rfl, rfl, rfl, rfl, rfl, rfl, rfl, rfl, rfl, rfl, rfl, rfl, rfl,
      rfl, rfl, rfl, rfl, rfl, rfl, rfl, rfl, rfl, rfl, List.forall_mem_nil _⟩

/-! ### O13: STATUS's two write-1-to-clear bits -/

/-- A flag cleared by a 1 (R39). -/
theorem writeStatus_eq (s : State) (v : Word) : s.writeStatus v =
    { s with evovf := if v.getLsbD 7 then false else s.evovf, ovr := if v.getLsbD 8 then false else s.ovr } := by
  have hclear (b c : Bool) : (b && !c) = if c then false else b := by cases c <;> simp
  rw [State.writeStatus, hclear, hclear]

/-- Settles O13. -/
theorem statusWriteClears : Obligations.StatusWriteClears := by
  refine fun s v rest hp => ⟨fun hf => ?_, fun hf => ?_⟩
  · rw [step_writeReg hp hf rfl (by decide) (by decide)]
    exact congrArg _ (writeStatus_eq _ v)
  · have hshut : (write32 0x008 v).acceptedWhileFaulted = false := by
      simp [Access.acceptedWhileFaulted, write32, evPopOffset, cmdOffset]
    exact step_refused hp (by decide : (0x008 : Nat) < 0x1000) hf hshut

/-! ### O14: the oscillators' registers -/

/-- The three writable registers of an oscillator act on that oscillator alone (R51). -/
theorem step_writeOsc {s : State} {phase ftw point : Nat} {v : Word} {rest : List Access} (k : OscId) (hf : s.fault = false)
    (hphase : regAt phase = some (.oscPhase k)) (hftw : regAt ftw = some (.oscFtw k)) (hpoint : regAt point = some (.oscPoint k)) :
    let t := s.takeAccess rest
    (s.bus.pending = write32 phase v :: rest → step s = .next (t.setOsc k ((t.osc k).writePhase v))) ∧
      (s.bus.pending = write32 ftw v :: rest → step s = .next (t.setOsc k ((t.osc k).writeFtw v))) ∧
      (s.bus.pending = write32 point v :: rest → step s = .next (t.setOsc k ((t.osc k).writePoint v))) :=
  ⟨fun hp => step_writeReg hp hf hphase (by simp) (by simp), fun hp => step_writeReg hp hf hftw (by simp) (by simp),
    fun hp => step_writeReg hp hf hpoint (by simp) (by simp)⟩

/-- Settles O14: the registers of oscillator k stand at 0x100 + 0x10·k. -/
theorem oscillatorRegisterWrites : Obligations.OscillatorRegisterWrites := by
  intro s v rest k hf hk
  match k, hk with
  | 0, _ => exact step_writeOsc .mix hf rfl rfl rfl
  | 1, _ => exact step_writeOsc .tim hf rfl rfl rfl
  | 2, _ => exact step_writeOsc .car hf rfl rfl rfl

/-! ### O16: reserved offsets and read-only registers -/

/-- A write to a read-only register is ignored (R73). -/
theorem writeReg_of_readOnly {r : Reg} (h : r.code = .ro) (s : State) (v : Word) : writeReg s r v = s := by
  cases r with
  | ctrl | status | cmd | arg0 | arg1 | fs | fb | freqCenter | lockBw | sigThresh | fftPower | oscPhase | oscFtw | oscPoint
  | sampleIn | evPop => cases h
  | _ => rfl

/-- Settles O16. -/
theorem reservedAndReadOnly : Obligations.ReservedAndReadOnly := by
  refine fun s off rest ho hal hf => ⟨fun v hp hoff => ?_, fun hp hoff => ?_⟩
  · rcases hoff with hnone | ⟨r, hr, hro⟩
    · rw [step_write32 hp ho hal hf, writeWord, hnone]
    · rw [step_writeReg hp hf hr (by rintro rfl; cases hro) (by rintro rfl; cases hro), writeReg_of_readOnly hro]
  · rw [step_read32 hp ho hal, readWord_of_reserved _ (hoff.elim id regAt_eq_none)]

/-! ### The fields of STATUS and NSTAT (R38, R52) -/

theorem bitAt_eq (b : Bool) (n : Nat) : bitAt b n = b.toNat * 2 ^ n := by cases b <;> simp [bitAt]

theorem getLsbD_eq_decide (x : Word) (n : Nat) : x.getLsbD n = decide (x.toNat / 2 ^ n % 2 = 1) := by
  rw [← BitVec.testBit_toNat, Nat.testBit_eq_decide_div_mod_eq]

theorem decide_toNat_eq_one (b : Bool) : decide (b.toNat = 1) = b := by cases b <;> rfl

theorem evne_eq (s : State) : s.evne = decide (s.fifo ≠ []) := by
  simp [State.evne, State.evCount, List.length_pos_iff]

theorem dcd_eq (s : State) : s.dcd = decide (s.dp.gate.st ≠ .noSig) := by
  cases h : s.dp.gate.st <;> simp [State.dcd, h]

theorem GateState.code_le (g : GateState) : g.code ≤ 2 := by cases g <;> decide

theorem AcqState.code_le (a : AcqState) : a.code ≤ 3 := by cases a <;> decide

/-- The bits of STATUS below IRQ (R38). -/
def State.statusLow (s : State) : Nat :=
  s.dcd.toNat + s.dp.gate.st.code * 2 + s.dp.acq.st.code * 8 + s.fault.toNat * 32 + s.evne.toNat * 64 + s.evovf.toNat * 128 +
    s.ovr.toNat * 256

theorem State.statusLow_lt (s : State) : s.statusLow < 2 ^ 9 := by
  have hst := s.dp.gate.st.code_le
  have hacq := s.dp.acq.st.code_le
  have hb := Bool.toNat_le
  have := hb s.dcd; have := hb s.fault; have := hb s.evne; have := hb s.evovf; have := hb s.ovr
  rw [State.statusLow]
  omega

/-- STATUS is its bits below IRQ, with IRQ at bit 9 (R38). -/
theorem State.statusWord_toNat (s : State) : s.statusWord.toNat = 2 ^ 9 * s.irq.toNat + s.statusLow := by
  have hlow := s.statusLow_lt
  have hirq := Bool.toNat_le s.irq
  have hsum : s.statusWord = BitVec.ofNat 32 (2 ^ 9 * s.irq.toNat + s.statusLow) := by
    rw [State.statusWord, State.statusLow]
    simp only [bitAt_eq]
    congr 1
    omega
  rw [hsum, BitVec.toNat_ofNat]
  omega

/-- Bit n of STATUS: IRQ at 9, the lower bits of no one else's (R38). -/
theorem State.statusWord_getLsbD (s : State) (n : Nat) : s.statusWord.getLsbD n =
    if n < 9 then s.statusLow.testBit n else decide (n = 9) && s.irq := by
  rw [← BitVec.testBit_toNat, s.statusWord_toNat, Nat.testBit_two_pow_mul_add _ s.statusLow_lt, Nat.testBit_bool_toNat]
  split
  · rfl
  · rw [show decide (n - 9 = 0) = decide (n = 9) from decide_eq_decide.mpr (by omega)]

/-- Each field of STATUS below IRQ, where R38 puts it. -/
theorem State.statusLow_fields (s : State) :
    (s.statusLow / 2 ^ 0 % 2 = s.dcd.toNat ∧ s.statusLow / 2 ^ 5 % 2 = s.fault.toNat ∧ s.statusLow / 2 ^ 6 % 2 = s.evne.toNat ∧
      s.statusLow / 2 ^ 7 % 2 = s.evovf.toNat ∧ s.statusLow / 2 ^ 8 % 2 = s.ovr.toNat) ∧
      s.statusLow / 2 % 4 = s.dp.gate.st.code ∧ s.statusLow / 8 % 4 = s.dp.acq.st.code := by
  have hst := s.dp.gate.st.code_le
  have hacq := s.dp.acq.st.code_le
  have hb := Bool.toNat_le
  have := hb s.dcd; have := hb s.fault; have := hb s.evne; have := hb s.evovf; have := hb s.ovr
  rw [State.statusLow]
  omega

/-- A flag of STATUS below IRQ. -/
theorem State.statusWord_flag {s : State} {n : Nat} {b : Bool} (hn : n < 9) (h : s.statusLow / 2 ^ n % 2 = b.toNat) :
    s.statusWord.getLsbD n = b := by
  rw [s.statusWord_getLsbD, if_pos hn, Nat.testBit_eq_decide_div_mod_eq, h, decide_toNat_eq_one]

/-- The two-bit fields of STATUS: QGST at 1 and ACQST at 3. -/
theorem State.statusWord_qgst (s : State) : (s.statusWord.extractLsb' 1 2).toNat = s.dp.gate.st.code := by
  obtain ⟨-, hst, -⟩ := s.statusLow_fields
  rw [BitVec.extractLsb'_toNat, s.statusWord_toNat, Nat.shiftRight_eq_div_pow]
  omega

theorem State.statusWord_acqst (s : State) : (s.statusWord.extractLsb' 3 2).toNat = s.dp.acq.st.code := by
  obtain ⟨-, -, hacq⟩ := s.statusLow_fields
  rw [BitVec.extractLsb'_toNat, s.statusWord_toNat, Nat.shiftRight_eq_div_pow]
  omega

theorem State.irq_eq (s : State) : s.irq = (s.ctrl.getLsbD 3 && (decide (s.fifo ≠ []) || s.fault)) := by
  rw [State.irq, evne_eq, State.irqEn]

theorem Osc.nstat_toNat (o : Osc) : o.nstat.toNat = o.armed.toNat + o.latch.toNat * 2 := by
  have harmed := Bool.toNat_le o.armed
  have hlatch := Bool.toNat_le o.latch
  rw [Osc.nstat, bitAt_eq, bitAt_eq, BitVec.toNat_ofNat]
  omega

/-- Settles O18: STATUS and NSTAT are sums of fields at their bits, each smaller than its place. -/
theorem statusBits : Obligations.StatusBits := by
  refine ⟨fun s => ?_, fun o => ?_⟩
  · obtain ⟨⟨hdcd, hfault, hevne, hevovf, hovr⟩, -, -⟩ := s.statusLow_fields
    have hlow := s.statusLow_lt
    have hirq := Bool.toNat_le s.irq
    have hsize : s.statusWord.toNat < 2 ^ 10 := by rw [s.statusWord_toNat]; omega
    refine ⟨?_, ?_, ?_, State.statusWord_flag (by decide) hfault, ?_, State.statusWord_flag (by decide) hevovf,
      State.statusWord_flag (by decide) hovr, ?_, s.irq_eq, hsize, rfl⟩
    · rw [State.statusWord_flag (by decide) hdcd, dcd_eq]
    · rw [s.statusWord_qgst]; rfl
    · rw [s.statusWord_acqst]; rfl
    · rw [State.statusWord_flag (by decide) hevne, evne_eq]
    · rw [s.statusWord_getLsbD, if_neg (by decide), s.irq_eq, decide_eq_true rfl, Bool.true_and]
  · have harmed := Bool.toNat_le o.armed
    have hlatch := Bool.toNat_le o.latch
    have hbit0 : o.nstat.toNat / 2 ^ 0 % 2 = o.armed.toNat := by rw [o.nstat_toNat]; omega
    have hbit1 : o.nstat.toNat / 2 ^ 1 % 2 = o.latch.toNat := by rw [o.nstat_toNat]; omega
    have hsize : o.nstat.toNat < 4 := by rw [o.nstat_toNat]; omega
    exact ⟨by rw [getLsbD_eq_decide, hbit0, decide_toNat_eq_one], by rw [getLsbD_eq_decide, hbit1, decide_toNat_eq_one], hsize⟩

/-! ### O15: the stored registers -/

/-- The registers of the operands and of the pending settings. -/
def Reg.isStored (r : Reg) : Bool :=
  match r with
  | .arg0 _ | .arg1 _ | .fs _ | .fb _ | .freqCenter _ | .lockBw _ | .sigThresh _ | .fftPower => true
  | _ => false

/-- The half written, and the half kept. -/
theorem halfWord_withHalf (x : F64) (h : Half) (v : Word) : halfWord (withHalf x h v) h = v := by
  cases h
  · exact BitVec.extractLsb'_append_eq_right
  · exact BitVec.extractLsb'_append_eq_left

theorem halfWord_withHalf_ne {h h' : Half} (x : F64) (v : Word) (hne : h' ≠ h) :
    halfWord (withHalf x h v) h' = halfWord x h' := by
  cases h <;> cases h'
  · exact absurd rfl hne
  · exact BitVec.extractLsb'_append_eq_left
  · exact BitVec.extractLsb'_append_eq_right
  · exact absurd rfl hne

theorem readReg_writeReg_same {r : Reg} (hr : r.isStored = true) (s : State) (v : Word) : readReg (writeReg s r v) r = v := by
  cases r with
  | arg0 | arg1 | fs | fb | freqCenter | lockBw | sigThresh => exact halfWord_withHalf _ _ v
  | fftPower => rfl
  | _ => cases hr

theorem readReg_writeReg_ne {r r' : Reg} (hr : r.isStored = true) (hne : r' ≠ r) (s : State) (v : Word) :
    readReg (writeReg s r v) r' = readReg s r' := by
  cases r with
  | arg0 h =>
    cases r' with
    | arg0 h' => exact halfWord_withHalf_ne _ v fun e => hne (congrArg _ e)
    | _ => rfl
  | arg1 h =>
    cases r' with
    | arg1 h' => exact halfWord_withHalf_ne _ v fun e => hne (congrArg _ e)
    | _ => rfl
  | fs h =>
    cases r' with
    | fs h' => exact halfWord_withHalf_ne _ v fun e => hne (congrArg _ e)
    | _ => rfl
  | fb h =>
    cases r' with
    | fb h' => exact halfWord_withHalf_ne _ v fun e => hne (congrArg _ e)
    | _ => rfl
  | freqCenter h =>
    cases r' with
    | freqCenter h' => exact halfWord_withHalf_ne _ v fun e => hne (congrArg _ e)
    | _ => rfl
  | lockBw h =>
    cases r' with
    | lockBw h' => exact halfWord_withHalf_ne _ v fun e => hne (congrArg _ e)
    | _ => rfl
  | sigThresh h =>
    cases r' with
    | sigThresh h' => exact halfWord_withHalf_ne _ v fun e => hne (congrArg _ e)
    | _ => rfl
  | fftPower =>
    cases r' with
    | fftPower => exact absurd rfl hne
    | _ => rfl
  | _ => cases hr

/-- A stored register is a field of the operands or of the pending settings (R34, R42). -/
theorem writeReg_stored {r : Reg} (hr : r.isStored = true) (s : State) (v : Word) :
    ∃ x y p, writeReg s r v = { s with arg0 := x, arg1 := y, pend := p } := by
  cases r with
  | arg0 | arg1 | fs | fb | freqCenter | lockBw | sigThresh | fftPower => exact ⟨_, _, _, rfl⟩
  | _ => cases hr

@[simp] theorem readReg_takeAccess (s : State) (rest : List Access) (r : Reg) :
    readReg (s.takeAccess rest) r = readReg s r := by cases r <;> rfl

/-- What the register at an offset reads is what its word reads. -/
theorem readWord_congr {s t : State} {o : Nat} (h : ∀ r, regAt o = some r → readReg t r = readReg s r) :
    readWord t o = readWord s o := by
  cases hr : regAt o with
  | none => rw [readWord_of_reserved t hr, readWord_of_reserved s hr]
  | some r => rw [readWord_of_regAt t hr, readWord_of_regAt s hr, h r hr]

/-- A write of CTRL is read in CTRL, and in STATUS. -/
theorem readReg_ctrl_ne {r : Reg} (s : State) (c : BitVec 4) (hctrl : r ≠ .ctrl) (hstatus : r ≠ .status) :
    readReg { s with ctrl := c } r = readReg s r := by
  cases r with
  | ctrl => exact absurd rfl hctrl
  | status => exact absurd rfl hstatus
  | _ => rfl

/-- CTRL's four bits, of the word written (R36). -/
theorem zeroExtend_extractLsb'_four (v : Word) : (v.extractLsb' 0 4).zeroExtend 32 = v &&& 0xF := by
  apply BitVec.eq_of_toNat_eq
  rw [BitVec.zeroExtend, BitVec.toNat_setWidth, BitVec.extractLsb'_toNat, BitVec.toNat_and, Nat.shiftRight_zero]
  exact (Nat.mod_eq_of_lt (by omega)).trans (Nat.and_two_pow_sub_one_eq_mod v.toNat 4).symm

/-- Settles O15: a stored register reads back what was written and every other register what it read before; a write of CTRL is
seen in CTRL and, in STATUS, at bit 9 alone. -/
theorem storedRegistersReadBack : Obligations.StoredRegistersReadBack := by
  intro s v rest hf kept
  refine ⟨fun off hoff hp => ?_, fun hp => ?_⟩
  · have hoffsets : ∀ off ∈ [0x020, 0x024, 0x028, 0x02C, 0x040, 0x044, 0x048, 0x04C, 0x050, 0x054, 0x058, 0x05C, 0x060, 0x064,
        0x068], (regAt off).any Reg.isStored = true := by decide +kernel
    obtain ⟨r, hr, hst⟩ := (Option.any_eq_true ..).mp (hoffsets off hoff)
    obtain ⟨x, y, p, hw⟩ := writeReg_stored hst (s.takeAccess rest) v
    refine ⟨_, step_writeReg hp hf hr (by rintro rfl; cases hst) (by rintro rfl; cases hst), ?_, ?_, ?_, fun o ho => ?_⟩
    · rw [hw]; exact ⟨rfl, rfl, rfl, rfl, rfl, rfl, hf, rfl, rfl, rfl, rfl, rfl⟩
    · rw [hw]; rfl
    · rw [readWord_of_regAt _ hr, readReg_writeReg_same hst]
    · refine readWord_congr fun r' hr' => ?_
      have hne : r' ≠ r := by
        rintro rfl; exact ho (regAt_injective hr' hr)
      rw [readReg_writeReg_ne hst hne, readReg_takeAccess]
  · have hctrl : regAt 0x004 = some .ctrl := rfl
    have hstatus : regAt 0x008 = some .status := rfl
    refine ⟨_, step_writeReg hp hf hctrl (by decide) (by decide), ⟨rfl, rfl, rfl, rfl, rfl, rfl, hf, rfl, rfl, rfl, rfl, rfl⟩,
      rfl, rfl, rfl, zeroExtend_extractLsb'_four v, fun o h4 h8 => ?_, fun n hn => ?_, ?_⟩
    · refine readWord_congr fun r hr => (readReg_ctrl_ne _ _ ?_ ?_).trans (readReg_takeAccess s rest r)
      · rintro rfl; exact h4 (regAt_injective hr hctrl)
      · rintro rfl; exact h8 (regAt_injective hr hstatus)
    · rw [readWord_of_regAt _ hstatus, readWord_of_regAt _ hstatus]
      show (State.statusWord _).getLsbD n = (State.statusWord _).getLsbD n
      rw [State.statusWord_getLsbD, State.statusWord_getLsbD, decide_eq_false hn]
      rfl
    · rw [readWord_of_regAt _ hstatus]
      show (State.statusWord _).getLsbD 9 = _
      rw [State.statusWord_getLsbD, if_neg (by decide), State.irq_eq]
      simp [writeReg, hf]

end Sys2Proof.Machine
end

section
/-! SUPPORT. What RESET and APPLY leave (10_state.md R33; 46_control.md R371 to R375; 70_reset_and_hazards.md R450): statements O19
and O21. -/

namespace Sys2Proof.Machine

-- One theorem at a time: elaborated side by side, they ask for more threads than the memory limit allows.
set_option Elab.async false

/-! ### O19: RESET -/

/-- No register shows the host's accesses, which RESET keeps (log 22). -/
theorem readReg_resetAction (s : State) (r : Reg) : readReg (resetAction s) r = readReg State.reset r := by
  cases r <;> rfl

/-- The word R33 and R450 give an offset after reset. -/
def resetWordAt (off : Nat) : Word := ((resetWords.find? fun p => p.1 == off).map Prod.snd).getD 0

theorem readWord_resetAction (s : State) (off : Nat) : readWord (resetAction s) off = resetWordAt off := by
  have hmap : ∀ p ∈ regMap, readReg State.reset p.2 = resetWordAt p.1 := by decide +kernel
  have hnamed : ∀ p ∈ resetWords, (regAt p.1).isSome = true := by decide +kernel
  cases hr : regAt off with
  | some r => rw [readWord_of_regAt _ hr, readReg_resetAction, hmap _ (mem_regMap_of_regAt hr)]
  | none =>
    have hnone : resetWords.find? (fun p => p.1 == off) = none := by
      refine List.find?_eq_none.mpr fun p hp he => ?_
      have hsome := hnamed p hp
      rw [beq_iff_eq.mp he, hr] at hsome
      cases hsome
    rw [readWord_of_reserved _ hr, resetWordAt, hnone]
    rfl

theorem resetAction_irq (s : State) : (resetAction s).irq = false := by
  simp [State.irq_eq, resetAction, State.resetAt]

/-- Settles O19. -/
theorem resetLeaves : Obligations.ResetLeaves := fun s =>
  ⟨resetAction s, rfl, rfl, fun n _ => readWord_resetAction s (4 * n), rfl, rfl, rfl, rfl, rfl, rfl, rfl, rfl, rfl, resetAction_irq s⟩

/-! ### O21: APPLY -/

/-- Legal settings, with positivity as an order on the reals. -/
theorem settingsLegal_iff_lt {p : Settings} : settingsLegal p = true ↔
    (∀ x ∈ [p.fs, p.fb, p.freqCenter, p.lockBw, p.sigThresh], x.isFinite = true) ∧ F64.lt F64.zero p.fs = true ∧
      F64.lt F64.zero p.fb = true := by
  have hlist : (∀ x ∈ [p.fs, p.fb, p.freqCenter, p.lockBw, p.sigThresh], x.isFinite = true) ↔ p.fs.isFinite = true ∧
      p.fb.isFinite = true ∧ p.freqCenter.isFinite = true ∧ p.lockBw.isFinite = true ∧ p.sigThresh.isFinite = true := by simp
  rw [settingsLegal_iff, hlist]
  refine and_congr_right fun hfinite => ?_
  obtain ⟨hfs, hfb, -⟩ := hfinite
  rw [le_zero_eq_not_lt hfs, le_zero_eq_not_lt hfb, Bool.not_eq_false', Bool.not_eq_false']

/-- FFT_POWER clamped to 4 to 16, case by case (R371). -/
theorem clampFftPower_eq (w : Word) : clampFftPower w = if w.toInt < 4 then 4 else if 16 < w.toInt then 16 else w.toNat := by
  have hmin : (params.fftPowMin : Int) = 4 := rfl
  have hmax : (params.fftPowMax : Int) = 16 := rfl
  have hint := w.toInt_eq_toNat_cond
  rw [clampFftPower, hmin, hmax]
  split_ifs <;> omega

theorem rebuild_eq_rebuiltByRules (a : Active) : rebuild a = rebuiltByRules a := rfl

/-- The record of APPLY's event (R68, R373). -/
theorem push_sigAbsent (s : State) (idx : Word) : s.push (.sigAbsent idx true) = pushed s 2 [idx, 1] := rfl

/-- APPLY on legal settings: the clamp, the rebuild and the event (R371, R373). -/
theorem execApply_of_legal {s : State} (hf : s.fault = false) (h : settingsLegal s.pend = true) :
    execApply s = .next (s.applyEvent s.applied) :=
  congrArg _ (runCommand_ok (args := []) (written := []) hf rfl (if_pos h) rfl)

theorem execApply_of_illegal {s : State} (hf : s.fault = false) (h : ¬settingsLegal s.pend = true) :
    execApply s = .next (raiseFault .badSettings 0x01000000 s) := by
  have hfails : (if settingsLegal s.pend then Except.ok (s.applyEvent s.applied, []) else .error FaultCode.badSettings) =
      (.error .badSettings : Res (State × List F64)) := if_neg h
  rw [execApply, hfails, runCommand.eq_def, hf]
  rfl

theorem applyEvent_eq (s t : State) : s.applyEvent t =
    if s.dp.gate.st = .noSig then t else pushed t 2 [s.dp.sampleCnt.extractLsb' 0 32, 1] := by
  rw [State.applyEvent, dcd_eq, push_sigAbsent, State.sampleIndex]
  simp only [decide_eq_true_eq, ne_eq, ite_not]

/-- Settles O21. -/
theorem applyCompletes : Obligations.ApplyCompletes := by
  intro s hf p
  split
  case isTrue hlegal =>
    intro fb lo hi a t
    have ha : activeOf s.pend s.ctrl = a := by rw [activeOf, clampFftPower_eq]; rfl
    have ht : s.applied = t := by rw [State.applied, ha, rebuild_eq_rebuiltByRules]
    show execApply s = _
    rw [execApply_of_legal hf (settingsLegal_iff_lt.mpr hlegal), applyEvent_eq, ht]
  case isFalse hillegal => exact execApply_of_illegal hf fun h => hillegal (settingsLegal_iff_lt.mp h)

end Sys2Proof.Machine
end

section
/-! SUPPORT. The bounds of the buffers and the divisors of the acquisition units (20_memory.md R82; 46_control.md R372;
60_exceptions.md R411), and the BUS fault (20_memory.md R83): statements O25 and O8. -/

namespace Sys2Proof.F64

/-! ### The order of positive values is the order of their encodings (R16) -/

theorem abs_toReal_strictMono {x y : F64} (h : x.mag < y.mag) : |x.toReal| < |y.toReal| := by
  have hfx := frac_lt x
  have hfy := frac_lt y
  have hle : x.expo ≤ y.expo := by rw [mag_eq, mag_eq] at h; rw [expo_eq, expo_eq]; omega
  rw [abs_toReal, abs_toReal]
  rcases hle.eq_or_lt with heq | hlt
  · have hmant : x.mant < y.mant := by
      rw [mag_eq, mag_eq] at h
      rw [expo_eq, expo_eq] at heq
      unfold mant
      split <;> split <;> omega
    rw [heq]
    gcongr
  · have hmx : (x.mant : ℝ) < 2 ^ 53 := by exact_mod_cast mant_lt x
    have hmy : (2 : ℝ) ^ 52 ≤ y.mant := by
      rw [expo_eq, expo_eq] at hlt
      have hnormal : 2 ^ 52 ≤ y.mant := by rw [mant, if_neg (by omega)]; omega
      exact_mod_cast hnormal
    have hexp : x.expo + 1 ≤ y.expo := hlt
    calc (x.mant : ℝ) * 2 ^ x.expo < 2 ^ 53 * 2 ^ x.expo := by gcongr
      _ = 2 ^ 52 * 2 ^ (x.expo + 1) := by rw [zpow_add₀ two_ne_zero]; ring
      _ ≤ y.mant * 2 ^ y.expo := by gcongr; norm_num

theorem le_of_toReal_le {x y : F64} (hx : x.isFinite = true) (hy : y.isFinite = true) (hx0 : 0 < x.toReal)
    (h : x.toReal ≤ y.toReal) : le x y = true := by
  obtain ⟨hsx, -⟩ := toReal_pos_iff.mp hx0
  obtain ⟨hsy, -⟩ := toReal_pos_iff.mp (hx0.trans_le h)
  have hmag : x.mag ≤ y.mag := by
    by_contra hlt
    have habs := abs_toReal_strictMono (not_le.mp hlt)
    rw [abs_of_pos hx0, abs_of_pos (hx0.trans_le h)] at habs
    exact absurd h (not_le.mpr habs)
  refine le_iff.mpr ⟨isFinite_not_isNaN hx, isFinite_not_isNaN hy, ?_⟩
  simpa [key, hsx, hsy] using hmag

theorem lt_zero_of_toReal_pos {x : F64} (hx : x.isFinite = true) (h : 0 < x.toReal) : lt zero x = true := by
  by_contra hlt
  have hle : le x zero = true := by rw [Machine.le_zero_eq_not_lt hx]; simpa using hlt
  have := toReal_le_of_le hle
  rw [toReal_zero] at this
  linarith

theorem isZero_of_toReal_pos {x : F64} (h : 0 < x.toReal) : x.isZero = false := by
  rw [← Bool.not_eq_true]
  exact fun hz => h.ne' (toReal_of_isZero hz)

/-! ### Exact results -/

/-- An exact result that a binary64 value holds is not rounded. -/
theorem Rounds.exact {v : ℝ} {r z : F64} (h : Rounds v r) (hz : z.isFinite = true) (hv : z.toReal = v) :
    r.isFinite = true ∧ r.toReal = v := by
  obtain ⟨hf, h1, h2⟩ := h.between hz hz hv.le hv.ge
  exact ⟨hf, le_antisymm (h2.trans hv.le) (hv.ge.trans h1)⟩

/-- A positive value halves exactly k times where that leaves its unit at 2^-1074 or more. -/
theorem exists_toReal_div_two_pow {x : F64} (k : ℕ) (hx : x.isFinite = true) (hs : x.sign = false)
    (he : (k : ℤ) - 1074 ≤ x.expo) : ∃ z : F64, z.isFinite = true ∧ z.toReal = x.toReal / 2 ^ k := by
  have hfield : x.expField < 2048 := Nat.mod_lt _ (by norm_num)
  have hmax : x.expField ≠ 2047 := by simpa [isFinite] using hx
  have hexp := expo_eq x
  have hnormal : x.expo - k = -1074 ∨ 2 ^ 52 ≤ x.mant := by
    rcases Nat.eq_zero_or_pos x.expField with h0 | h0
    · left; omega
    · right; rw [mant, if_neg (by omega)]; omega
  have hm := mant_lt x
  have hb : (x.expo - k + 1074).toNat * 2 ^ 52 + x.mant < 2047 * 2 ^ 52 := by omega
  obtain ⟨hfin, hval, -⟩ := pack_value false (x.expo - k) x.mant (by omega) hm.le hnormal hb
  refine ⟨_, hfin, hval.trans ?_⟩
  rw [toReal_eq, hs, zpow_sub₀ two_ne_zero, zpow_natCast]
  ring

theorem div_two_pow_exact {x y : F64} (k : ℕ) (hx : x.isFinite = true) (hs : x.sign = false) (he : (k : ℤ) - 1074 ≤ x.expo)
    (hy : y.isFinite = true) (hyv : y.toReal = 2 ^ k) : (x.div y).isFinite = true ∧ (x.div y).toReal = x.toReal / 2 ^ k := by
  obtain ⟨z, hz, hzv⟩ := exists_toReal_div_two_pow k hx hs he
  have hr := rounds_div hx hy (isZero_of_toReal_pos (by rw [hyv]; positivity))
  rw [hyv] at hr
  exact hr.exact hz hzv

/-! ### The nearest integer (R20) -/

theorem signed_cast (s : Bool) (n : ℕ) : ((signed s n : ℤ) : ℝ) = signFactor s * n := by
  cases s <;> simp [signed, signFactor]

/-- A quotient by 2^k, half a unit added and cut off, is within half a unit. -/
theorem abs_div_two_pow_sub_le (m k : ℕ) (hk : k ≠ 0) :
    |((((m + 2 ^ (k - 1)) / 2 ^ k : ℕ) : ℝ)) - m / 2 ^ k| ≤ 1 / 2 := by
  obtain ⟨j, rfl⟩ := Nat.exists_eq_succ_of_ne_zero hk
  rw [Nat.succ_eq_add_one, Nat.add_sub_cancel]
  set h : ℕ := 2 ^ j with hh
  have hpow : 2 ^ (j + 1) = 2 * h := by rw [hh]; ring
  have hpowR : (2 : ℝ) ^ (j + 1) = 2 * h := by exact_mod_cast hpow
  have hpos : 0 < h := by positivity
  have hposR : (0 : ℝ) < 2 * h := by exact_mod_cast Nat.mul_pos two_pos hpos
  rw [hpow, hpowR]
  set q := (m + h) / (2 * h)
  have hdiv : (2 * h : ℝ) * q + ((m + h) % (2 * h) : ℕ) = m + h := by exact_mod_cast Nat.div_add_mod (m + h) (2 * h)
  have hmod : (((m + h) % (2 * h) : ℕ) : ℝ) ≤ 2 * h := by exact_mod_cast (Nat.mod_lt _ (Nat.mul_pos two_pos hpos)).le
  have hmod0 : (0 : ℝ) ≤ ((m + h) % (2 * h) : ℕ) := Nat.cast_nonneg _
  have hq : (q : ℝ) - m / (2 * h) = (2 * h * q - m) / (2 * h) := by field_simp
  rw [hq, abs_div, abs_of_pos hposR, div_le_iff₀ hposR]
  exact abs_le.mpr ⟨by linarith, by linarith⟩

theorem abs_round_sub_le {x : F64} (hx : x.isFinite = true) : |(x.round : ℝ) - x.toReal| ≤ 1 / 2 := by
  rw [round, if_pos hx, signed_cast, toReal_eq, mul_assoc, ← mul_sub, abs_mul, abs_signFactor, one_mul]
  split_ifs with he
  · obtain ⟨n, hn⟩ := Int.eq_ofNat_of_zero_le he
    rw [hn, Int.toNat_natCast, zpow_natCast]
    norm_num
  · obtain ⟨k, hk⟩ : ∃ k : ℕ, x.expo = -k := ⟨(-x.expo).toNat, by omega⟩
    rw [hk, neg_neg, Int.toNat_natCast, zpow_neg, zpow_natCast, ← div_eq_mul_inv]
    exact abs_div_two_pow_sub_le _ k (by omega)

/-- Rounding keeps a value between two integers between them. -/
theorem round_between {x : F64} {lo hi : ℤ} (hx : x.isFinite = true) (hlo : lo ≤ x.toReal) (hhi : x.toReal ≤ hi) :
    lo ≤ x.round ∧ x.round ≤ hi := by
  obtain ⟨h1, h2⟩ := abs_le.mp (abs_round_sub_le hx)
  have hlow : ((lo - 1 : ℤ) : ℝ) < x.round := by push_cast; linarith
  have hhigh : (x.round : ℝ) < (hi + 1 : ℤ) := by push_cast; linarith
  have := Int.cast_lt.mp hlow
  have := Int.cast_lt.mp hhigh
  omega

end Sys2Proof.F64

namespace Sys2Proof.Machine

-- One theorem at a time: elaborated side by side, they ask for more threads than the memory limit allows.
set_option Elab.async false

open F64

/-! ### O25: buffer bounds and divisors from FS = 2^-1000 up -/

theorem lengthOf_between {x : F64} {lo hi : ℕ} (hx : x.isFinite = true) (hlo : lo ≤ x.toReal) (hhi : x.toReal ≤ hi)
    (hhi1 : 1 ≤ hi) : lo ≤ lengthOf x ∧ lengthOf x ≤ hi := by
  obtain ⟨h1, h2⟩ := round_between (lo := lo) (hi := hi) hx (by exact_mod_cast hlo) (by exact_mod_cast hhi)
  unfold lengthOf
  omega

/-- A rate of at least 2^-1000 is positive, and its last place is far above 2^-1074. -/
theorem sign_expo_of_two_pow_le {fs : F64} (h : F64.le ⟨0x0170000000000000⟩ fs = true) :
    fs.sign = false ∧ -1052 ≤ fs.expo := by
  obtain ⟨-, -, hkey⟩ := le_iff.mp h
  rw [show key ⟨0x0170000000000000⟩ = 23 * 2 ^ 52 by decide, key] at hkey
  have hfrac := frac_lt fs
  have hmag := mag_eq fs
  have hexp := expo_eq fs
  cases hs : fs.sign <;> simp only [hs, if_true, if_false, Bool.false_eq_true] at hkey
  · exact ⟨rfl, by omega⟩
  · omega

/-- Away from the subnormal rates the clamp FS / SPS_MAX is exact: SPS is at most 128 (R371). -/
theorem fs_le_clampFb {fs fb : F64} (hfs : fs.isFinite = true) (hfb : fb.isFinite = true) (hs : fs.sign = false)
    (he : -1052 ≤ fs.expo) : fs.toReal ≤ 128 * (clampFb fs fb).toReal := by
  obtain ⟨hq, hqv⟩ := div_two_pow_exact (y := params.spsMax) 7 hfs hs (by omega) (by decide) (by rw [toReal_spsMax]; norm_num)
  have hge := toReal_le_of_le (fmax_spec (isFinite_not_isNaN (fmin_finite hfb hfs)) (isFinite_not_isNaN hq)).2.2
  rw [hqv] at hge
  show fs.toReal ≤ 128 * (fmax (fmin fb fs) (fs.div params.spsMax)).toReal
  linarith

/-- What the clamps leave of the active settings at a sample rate of at least 2^-1000: beside `Clamped`, at most 128 samples a
symbol. -/
structure Active.RateNormal (a : Active) : Prop where
  clamped : a.Clamped
  fs_sign : a.fs.sign = false
  fs_expo : -1052 ≤ a.fs.expo
  fs_le : a.fs.toReal ≤ 128 * a.fb.toReal

theorem activeOf_rateNormal {p : Settings} (c : BitVec 4) (h : settingsLegal p = true)
    (hfs : F64.le ⟨0x0170000000000000⟩ p.fs = true) : (activeOf p c).RateNormal := by
  obtain ⟨⟨hf, hb, -⟩, -⟩ := settingsLegal_iff.mp h
  obtain ⟨hs, he⟩ := sign_expo_of_two_pow_le hfs
  exact ⟨activeOf_clamped c h, hs, he, fs_le_clampFb hf hb hs he⟩

namespace Active.RateNormal

variable {a : Active} (h : a.RateNormal)

include h

/-- SPS lies in [1, SPS_MAX] (R45, R371). -/
theorem sps_between : (a.fs.div a.fb).isFinite = true ∧ 1 ≤ (a.fs.div a.fb).toReal ∧ (a.fs.div a.fb).toReal ≤ 128 := by
  have hb := h.clamped.fb_pos
  have hr := rounds_div h.clamped.fs_finite h.clamped.fb_finite (isZero_of_toReal_pos hb)
  have hlo : 1 ≤ a.fs.toReal / a.fb.toReal := (one_le_div hb).mpr h.clamped.fb_le
  have hhi : a.fs.toReal / a.fb.toReal ≤ 128 := (div_le_iff₀ hb).mpr h.fs_le
  have hbetween := hr.between (a := one) (b := params.spsMax) (by decide) (by decide) (by rwa [toReal_one])
    (by rwa [toReal_spsMax])
  rwa [toReal_one, toReal_spsMax] at hbetween

theorem sps_le : F64.le one (a.fs.div a.fb) = true ∧ F64.le (a.fs.div a.fb) params.spsMax = true := by
  obtain ⟨hf, hlo, hhi⟩ := h.sps_between
  exact ⟨le_of_toReal_le (by decide) hf (by rw [toReal_one]; norm_num) (by rwa [toReal_one]),
    le_of_toReal_le hf (by decide) (by linarith) (by rwa [toReal_spsMax])⟩

/-- The symbol delay line holds 1 to SPS_MAX cells (R82). -/
theorem dsym_between : 1 ≤ (rebuild a).dsym ∧ (rebuild a).dsym ≤ 128 := by
  obtain ⟨hf, hlo, hhi⟩ := h.sps_between
  exact lengthOf_between hf (by exact_mod_cast hlo) (by exact_mod_cast hhi) (by norm_num)

/-- The matched filter has 2 to 2·SPS_MAX taps (R82). -/
theorem nmf_between : 2 ≤ (rebuild a).nmf ∧ (rebuild a).nmf ≤ 256 := by
  obtain ⟨hf, hlo, hhi⟩ := h.sps_between
  have hr := rounds_mul (x := two) (by decide) hf
  rw [toReal_two] at hr
  have h256 : (⟨0x4070000000000000⟩ : F64).toReal = 256 := by
    rw [toReal_of_fields (m := 2 ^ 52) (e := -44) (by decide)]; norm_num
  obtain ⟨hd, hd2, hd256⟩ := hr.between (a := two) (b := ⟨0x4070000000000000⟩) (by decide) (by decide)
    (by rw [toReal_two]; linarith) (by rw [h256]; linarith)
  rw [toReal_two] at hd2
  rw [h256] at hd256
  exact lengthOf_between hd (by exact_mod_cast hd2) (by exact_mod_cast hd256) (by norm_num)

/-- hzb = FS / NACQ is exact (R411). -/
theorem binSpacing_exact : (binSpacing a.fs (rebuild a).acq.nacq).isFinite = true ∧
    (binSpacing a.fs (rebuild a).acq.nacq).toReal = a.fs.toReal / 2 ^ 12 := by
  have hfields : (ofNat 4096).isFinite = true ∧ (ofNat 4096).sign = false ∧ (ofNat 4096).mant = 2 ^ 52 ∧
      (ofNat 4096).expo = -40 := by decide +kernel
  obtain ⟨hfin, hfields⟩ := hfields
  have hval : (ofNat 4096).toReal = 2 ^ 12 := by rw [toReal_of_fields hfields]; norm_num
  have hexpo := h.fs_expo
  exact div_two_pow_exact 12 h.clamped.fs_finite h.fs_sign (by omega) hfin hval

/-- ACQ_SPACING_FB × FB, rounded, is still between FS / 512 and FS. -/
theorem scaledFb_between : (params.acqSpacingFb.mul a.fb).isFinite = true ∧
    a.fs.toReal / 2 ^ 9 ≤ (params.acqSpacingFb.mul a.fb).toReal ∧ (params.acqSpacingFb.mul a.fb).toReal ≤ a.fs.toReal := by
  have hr := rounds_mul (x := params.acqSpacingFb) (by decide) h.clamped.fb_finite
  have hquarter : params.acqSpacingFb.toReal = 1 / 4 := by
    rw [toReal_of_fields (m := 2 ^ 52) (e := -54) (by decide)]; norm_num
  rw [hquarter] at hr
  have hexpo := h.fs_expo
  have hge := h.fs_le
  have hle := h.clamped.fb_le
  have hpos := h.clamped.fb_pos
  obtain ⟨z, hz, hzv⟩ := exists_toReal_div_two_pow 9 h.clamped.fs_finite h.fs_sign (by omega)
  rw [← hzv]
  exact hr.between hz h.clamped.fs_finite (by rw [hzv]; linarith) (by linarith)

theorem binSpacing_pos : F64.lt zero (binSpacing a.fs (rebuild a).acq.nacq) = true := by
  have hfs0 := h.clamped.fb_pos.trans_le h.clamped.fb_le
  obtain ⟨hf, hv⟩ := h.binSpacing_exact
  exact lt_zero_of_toReal_pos hf (by rw [hv]; positivity)

/-- SP is a quotient of two positive values, between 8 and 4096. -/
theorem toneSpacing_pos : F64.lt zero (toneSpacing a.fb (binSpacing a.fs (rebuild a).acq.nacq)) = true := by
  have hfs0 := h.clamped.fb_pos.trans_le h.clamped.fb_le
  obtain ⟨hf, hv⟩ := h.binSpacing_exact
  obtain ⟨hq, hlo, hhi⟩ := h.scaledFb_between
  have hpos : 0 < (binSpacing a.fs (rebuild a).acq.nacq).toReal := by rw [hv]; positivity
  obtain ⟨z, hz, hzv⟩ := exists_toReal_two_pow (k := 12) (by norm_num)
  obtain ⟨hfin, hge, -⟩ := (rounds_div hq hf (isZero_of_toReal_pos hpos)).between (a := one) (b := z) (by decide) hz
    (by rw [toReal_one, one_le_div hpos, hv]; linarith) (by rw [hzv, div_le_iff₀ hpos, hv]; linarith)
  rw [toReal_one] at hge
  exact lt_zero_of_toReal_pos hfin (zero_lt_one.trans_le hge)

end Active.RateNormal

/-- The acquisition buffer holds at most 2·NACQ cells (R82). -/
theorem acq_cells_le (a : Active) : (rebuild a).acq.lb + (rebuild a).acq.lt ≤ 8192 := by
  obtain ⟨-, hlb⟩ := segmentOf_range (n := 4096) (by norm_num) params.acqBaseSyms (a.fs.div a.fb)
  obtain ⟨-, hlt⟩ := segmentOf_range (n := 4096) (by norm_num) params.acqTopSyms (a.fs.div a.fb)
  exact Nat.add_le_add hlb hlt

/-- The continuous frame holds at most 2^FFT_POW_MAX cells (R82). -/
theorem frame_cells_le (p : Settings) (c : BitVec 4) : (rebuild (activeOf p c)).cont.nc ≤ 65536 :=
  Nat.pow_le_pow_right two_pos (clampFftPower_range p.fftPower).2

/-- Settles O25. -/
theorem geometryBounds : Obligations.GeometryBounds := by
  intro p c hlegal hfs a d
  have ha : a.RateNormal := activeOf_rateNormal c hlegal hfs
  obtain ⟨hsps1, hsps128⟩ := ha.sps_le
  obtain ⟨hnmf2, hnmf⟩ := ha.nmf_between
  obtain ⟨hdsym1, hdsym⟩ := ha.dsym_between
  exact ⟨hsps1, hsps128, hnmf2, hnmf.trans (by norm_num), hdsym1, hdsym.trans (by norm_num), acq_cells_le a,
    frame_cells_le p c, ha.binSpacing_pos, ha.toneSpacing_pos⟩

/-! ### O8: the BUS fault -/

theorem aligned32_eq_false_iff {a : Access} : a.aligned32 = false ↔ ¬(a.width = .w32 ∧ a.off % 4 = 0) := by
  rw [← Bool.not_eq_true, Access.aligned32, Bool.and_eq_true, beq_iff_eq, beq_iff_eq]

/-- Settles O8: of what an access can do, a misaligned one that is not refused can only take the BUS fault. -/
theorem busFault : Obligations.BusFault := by
  intro s a rest hp ho hf hbad
  have hal := aligned32_eq_false_iff.mpr hbad
  rw [step_access hp ho]
  rcases takeAccess_cases a (s.takeAccess rest) with ⟨hfault, -⟩ | ⟨-, -, hstep⟩ | ⟨h32, -⟩ | ⟨h32, -⟩
  · rw [State.takeAccess_fault, hf] at hfault
    cases hfault
  · exact hstep
  · rw [hal] at h32
    cases h32
  · rw [hal] at h32
    cases h32

end Sys2Proof.Machine
end

section
/-! SUPPORT. The two formats: decoding undoes encoding, the legal command words, and what an illegal one does (30_encoding.md R110 to
R121): statements O1 to O5. -/

namespace Sys2Proof.Machine

-- One theorem at a time: elaborated side by side, they ask for more threads than the memory limit allows.
set_option Elab.async false

/-! ### The rows of the opcode map (R113, R114) -/

theorem fields_of_row : ∀ r ∈ cmdRows, fieldZ (cmdWord r.op r.unit) = 0 ∧ fieldOp (cmdWord r.op r.unit) = r.op ∧
    fieldUnit (cmdWord r.op r.unit) = r.unit := by decide

theorem decodeCmd_of_row : ∀ r ∈ cmdRows, decodeCmd (cmdWord r.op r.unit) = .ok r.instr := by decide

theorem encode_of_row : ∀ r ∈ cmdRows, encode r.instr = (.cmd, cmdWord r.op r.unit) := by decide

/-- A command carries no operand in its word (R112). -/
theorem wellFormed_of_command {i : Instr} (h : encodePort i = .cmd) : i.WellFormed := by
  cases i with
  | sample i q => cases h
  | _ => exact trivial

/-- The decoder's rows are those of spec/opcode_table.json, in the same order. -/
theorem tableWords_eq : tableWords = cmdRows.map fun r => (cmdWord r.op r.unit, r.instr) := by decide

/-- Every instruction but SAMPLE has a row. -/
theorem exists_row {i : Instr} (h : encodePort i = .cmd) : ∃ r ∈ cmdRows, r.instr = i := by
  cases i with
  | sample i q => cases h
  | _ => decide

/-- A word with Z = 0 is the command word of its fields (R110). -/
theorem cmdWord_fields {w : Word} (hz : fieldZ w = 0) : cmdWord (fieldOp w) (fieldUnit w) = w := by
  have hw := w.isLt
  apply BitVec.eq_of_toNat_eq
  simp only [fieldZ, cmdWord, fieldOp, fieldUnit, BitVec.toNat_ofNat] at hz ⊢
  omega

/-- A command word decodes to an instruction exactly when they stand in one row (R114). -/
theorem decodeCmd_eq_ok_iff {w : Word} {i : Instr} :
    decodeCmd w = .ok i ↔ ∃ r ∈ cmdRows, cmdWord r.op r.unit = w ∧ r.instr = i := by
  constructor
  · intro h
    unfold decodeCmd at h
    split_ifs at h with hz ho
    split at h
    case h_2 => cases h
    case h_1 r hr =>
      have hsel := List.find?_some hr
      simp only [Bool.and_eq_true, beq_iff_eq] at hsel
      obtain ⟨hop, hunit⟩ := hsel
      exact ⟨r, List.mem_of_find?_eq_some hr, by rw [hop, hunit, cmdWord_fields (not_not.mp hz)], Except.ok.inj h⟩
  · rintro ⟨r, hr, rfl, rfl⟩
    exact decodeCmd_of_row r hr

/-- The units that R114 gives each opcode. -/
abbrev LegalFields (op unit : Nat) : Prop :=
  (op ≤ 0x03 ∧ unit = 0) ∨ (0x10 ≤ op ∧ op ≤ 0x16 ∧ unit ≤ 2) ∨ (op = 0x20 ∧ unit ≤ 1) ∨ (op = 0x21 ∧ unit = 0) ∨
    (op = 0x22 ∧ unit ≤ 3) ∨ (0x23 ≤ op ∧ op ≤ 0x26 ∧ unit = 0)

theorem legalFields_iff {op unit : Nat} : LegalFields op unit ↔ ∃ r ∈ cmdRows, r.op = op ∧ r.unit = unit := by
  constructor
  · intro h
    have hrows : ∀ (o : Fin 0x27) (u : Fin 4), LegalFields o u → ∃ r ∈ cmdRows, r.op = o ∧ r.unit = u := by decide +kernel
    exact hrows ⟨op, by omega⟩ ⟨unit, by omega⟩ h
  · rintro ⟨r, hr, rfl, rfl⟩
    have hrows : ∀ r ∈ cmdRows, LegalFields r.op r.unit := by decide
    exact hrows r hr

/-- A command word is legal exactly when Z = 0 and its row allows its UNIT (R114). -/
theorem exists_decodeCmd_iff {w : Word} : (∃ i, decodeCmd w = .ok i) ↔ fieldZ w = 0 ∧ LegalFields (fieldOp w) (fieldUnit w) := by
  rw [legalFields_iff]
  constructor
  · rintro ⟨i, hi⟩
    obtain ⟨r, hr, rfl, -⟩ := decodeCmd_eq_ok_iff.mp hi
    obtain ⟨hz, hop, hunit⟩ := fields_of_row r hr
    exact ⟨hz, r, hr, hop.symm, hunit.symm⟩
  · rintro ⟨hz, r, hr, hop, hunit⟩
    exact ⟨r.instr, decodeCmd_eq_ok_iff.mpr ⟨r, hr, by rw [hop, hunit, cmdWord_fields hz], rfl⟩⟩

/-! ### Sample words (R110, R112) -/

/-- The two halves of a sample word (R110). -/
theorem decodeSample_append (i q : BitVec 16) : decodeSample (q ++ i) = .sample i.toInt q.toInt := by
  have hlow : (q ++ i).extractLsb' 0 16 = i := BitVec.extractLsb'_append_eq_right
  have hhigh : (q ++ i).extractLsb' 16 16 = q := BitVec.extractLsb'_append_eq_left
  rw [decodeSample, hlow, hhigh]

theorem toInt_ofInt_of_fitsI16 {n : Int} (h : FitsI16 n) : (BitVec.ofInt 16 n).toInt = n := by
  rw [BitVec.toInt_ofInt]
  exact Int.bmod_eq_of_le (by omega) (by omega)

theorem decodeSample_sampleWord {i q : Int} (hi : FitsI16 i) (hq : FitsI16 q) : decodeSample (sampleWord i q) = .sample i q := by
  rw [sampleWord, decodeSample_append, toInt_ofInt_of_fitsI16 hi, toInt_ofInt_of_fitsI16 hq]

/-- A half of a sample word, read in two's complement (R15). -/
theorem fitsI16_toInt (x : BitVec 16) : FitsI16 x.toInt := by
  have hlo := x.le_toInt
  have hhi := x.toInt_lt
  constructor <;> omega

theorem sampleWord_halves (w : Word) : sampleWord (w.extractLsb' 0 16).toInt (w.extractLsb' 16 16).toInt = w := by
  rw [sampleWord, BitVec.ofInt_toInt, BitVec.ofInt_toInt]
  exact (BitVec.extractLsb'_append_extractLsb'_eq_extractLsb' rfl).trans BitVec.extractLsb'_eq_self

/-- Two's complement of 16 bits of a word, from bit `k` up (R15). -/
theorem toInt_half (w : Word) (k : Nat) : (w.extractLsb' k 16).toInt =
    if w.toNat / 2 ^ k % 2 ^ 16 < 2 ^ 15 then ((w.toNat / 2 ^ k % 2 ^ 16 : ℕ) : ℤ)
    else ((w.toNat / 2 ^ k % 2 ^ 16 : ℕ) : ℤ) - 2 ^ 16 := by
  rw [BitVec.toInt_eq_toNat_cond, BitVec.extractLsb'_toNat, Nat.shiftRight_eq_div_pow]
  split_ifs <;> omega

/-! ### O1 to O5 -/

/-- Settles O1: a command is its row's; a sample is put together from its halves. -/
theorem decodeEncode : Obligations.DecodeEncode := by
  intro i hwf
  cases hport : encodePort i with
  | cmd =>
    obtain ⟨r, hr, rfl⟩ := exists_row hport
    rw [encode_of_row r hr]
    exact decodeCmd_of_row r hr
  | sampleIn =>
    cases i with
    | sample i q => exact congrArg _ (decodeSample_sampleWord hwf.1 hwf.2)
    | _ => cases hport

/-- Settles O2. -/
theorem encodeDecode : Obligations.EncodeDecode := by
  refine ⟨fun p w i h => ?_, fun w => ?_⟩
  · cases p with
    | cmd =>
      obtain ⟨r, hr, rfl, rfl⟩ := decodeCmd_eq_ok_iff.mp h
      exact ⟨wellFormed_of_command (Prod.mk.inj (encode_of_row r hr)).1, encode_of_row r hr⟩
    | sampleIn =>
      rw [← Except.ok.inj h]
      exact ⟨⟨fitsI16_toInt _, fitsI16_toInt _⟩, congrArg _ (sampleWord_halves w)⟩
  · have hw := w.isLt
    have hlow := toInt_half w 0
    have hhigh := toInt_half w 16
    rw [pow_zero, Nat.div_one] at hlow
    rw [Nat.mod_eq_of_lt (by omega : w.toNat / 2 ^ 16 < 2 ^ 16)] at hhigh
    rw [← hlow, ← hhigh]
    rfl

/-- Settles O3. -/
theorem legalCommandWords : Obligations.LegalCommandWords := by
  refine ⟨fun w i => ?_, rfl, fun w => exists_decodeCmd_iff⟩
  rw [decodeCmd_eq_ok_iff, tableWords_eq, List.mem_map]
  simp only [Prod.mk.injEq]

/-- Settles O4: the fields that the statement names are those that R114 does not allow. -/
theorem illegalWordFaults : Obligations.IllegalWordFaults := by
  intro s rest w hp hf hillegal
  have hunit : fieldUnit w < 16 := Nat.mod_lt _ (by decide)
  have hnot : ¬∃ i, decodeCmd w = .ok i := by
    rw [exists_decodeCmd_iff]
    unfold fieldZ fieldOp fieldUnit LegalFields
    omega
  rw [step_write32 hp (by decide) (by decide) hf]
  show runWord .cmd w (s.takeAccess rest) = _
  cases hd : decodeCmd w with
  | ok i => exact absurd ⟨i, hd⟩ hnot
  | error e => rw [runWord, decode, hd]

/-- Settles O5: the legal words by their rows, the others by the first check that refuses them. -/
theorem decodedWords : Obligations.DecodedWords := by
  have hlegal : ∀ p ∈ tableWords, decode .cmd p.1 = .ok p.2 := fun p hp => (legalCommandWords.1 p.1 p.2).mpr hp
  exact ⟨hlegal (_, _) (by decide), hlegal (_, _) (by decide), hlegal (_, _) (by decide), hlegal (_, _) (by decide),
    hlegal (_, _) (by decide), hlegal (_, _) (by decide), hlegal (_, _) (by decide), by decide, by decide, by decide,
    congrArg _ (decodeSample_sampleWord (i := 32767) (q := -32768) (by decide) (by decide))⟩

end Sys2Proof.Machine
end

section
/-! SUPPORT. The filter, quantizer and slicer commands (41_filters.md R190 to R217; 44_quality_softbits.md R321 to R337): statements O37
to O43. -/

namespace Sys2Proof.F64

-- One theorem at a time: elaborated side by side, they ask for more threads than the memory limit allows.
set_option Elab.async false

/-! ### Rounding to the nearest integer, ties to even (R20) -/

theorem abs_rne_sub_le {x : F64} (hx : x.isFinite = true) : |(x.rne : ℝ) - x.toReal| ≤ 1 / 2 := by
  rw [rne, if_pos hx, signed_cast, toReal_eq, mul_assoc, ← mul_sub, abs_mul, abs_signFactor, one_mul]
  split_ifs with he
  · obtain ⟨n, hn⟩ := Int.eq_ofNat_of_zero_le he
    rw [hn, Int.toNat_natCast, zpow_natCast]
    norm_num
  · obtain ⟨k, hk⟩ : ∃ k : ℕ, x.expo = -k := ⟨(-x.expo).toNat, by omega⟩
    have hround := (roundShift_spec x.mant k false 0 (by omega) (fun _ => rfl) (fun h => by cases h)).1
    rw [hk, neg_neg, Int.toNat_natCast, zpow_neg, zpow_natCast, ← div_eq_mul_inv]
    rwa [add_zero] at hround

/-- An integer within half a unit of a value stays between two integers that the value lies between. -/
theorem int_between_of_abs_sub_le {v : ℝ} {n lo hi : ℤ} (h : |(n : ℝ) - v| ≤ 1 / 2) (hlo : lo ≤ v) (hhi : v ≤ hi) :
    lo ≤ n ∧ n ≤ hi := by
  obtain ⟨h1, h2⟩ := abs_le.mp h
  have hlow : lo - 1 < n := by exact_mod_cast (by linarith : (lo : ℝ) - 1 < n)
  have hhigh : n < hi + 1 := by exact_mod_cast (by linarith : (n : ℝ) < hi + 1)
  exact ⟨by omega, by omega⟩

/-! ### Values that are not NaN (R16) -/

/-- Of two values that are not NaN one is at most the other. -/
theorem le_of_not_le {x y : F64} (hx : x.isNaN = false) (hy : y.isNaN = false) (h : ¬le x y = true) : le y x = true := by
  rw [le_iff] at h ⊢
  exact ⟨hy, hx, by by_contra hlt; exact h ⟨hx, hy, by omega⟩⟩

theorem pack_not_isNaN (s : Bool) {b : ℕ} (hb : b ≤ 2047 * 2 ^ 52) : (pack s b).isNaN = false := by
  have hlt : b < 2 ^ 63 := by omega
  simp only [isNaN, pack_expField s b hlt, pack_frac s b hlt, Bool.and_eq_false_iff, beq_eq_false_iff_ne, bne_eq_false_iff_eq]
  omega

theorem roundPack_not_isNaN (s : Bool) (m : ℕ) (e : ℤ) (st : Bool) : (roundPack s m e st).isNaN = false := by
  have hcap (b : ℕ) : (if b < 2047 * 2 ^ 52 then b else 2047 * 2 ^ 52) ≤ 2047 * 2 ^ 52 := by split <;> omega
  unfold roundPack
  split
  · exact pack_not_isNaN s (Nat.zero_le _)
  · exact pack_not_isNaN s (hcap _)

/-- A product of finite values is no NaN, though it may overflow. -/
theorem mul_not_isNaN {x y : F64} (hx : x.isFinite = true) (hy : y.isFinite = true) : (x.mul y).isNaN = false := by
  simp only [mul, isFinite_not_isNaN hx, isFinite_not_isNaN hy, isFinite_not_isInf hx, isFinite_not_isInf hy, Bool.or_self,
    Bool.false_eq_true, if_false]
  exact roundPack_not_isNaN _ _ _ _

/-- A sum with one finite summand is no NaN. -/
theorem add_not_isNaN {x y : F64} (hx : x.isFinite = true) (hy : y.isNaN = false) : (x.add y).isNaN = false := by
  simp only [add, isFinite_not_isNaN hx, hy, isFinite_not_isInf hx, Bool.or_self, Bool.false_eq_true, if_false]
  split_ifs
  · exact hy
  · exact pack_not_isNaN _ (Nat.zero_le _)
  · exact roundPack_not_isNaN _ _ _ _

/-- Small naturals are finite reals. -/
theorem ofNat_finite {n : ℕ} (h : n ≤ 255) : (ofNat n).isFinite = true := by
  have hr : Rounds (n : ℝ) (ofNat n) := by
    rw [ofNat, ofInt, show decide ((n : ℤ) < 0) = false by simp]
    simpa [signFactor] using roundPack_rounds_exact false n 0
  have hn : (n : ℝ) ≤ 255 := by exact_mod_cast h
  exact (hr.abs_le_two_pow (k := 8) (by norm_num) (by rw [Nat.abs_cast]; linarith)).1

/-! ### Clamping (R26) -/

/-- `max` and `min` of a NaN are NaN (R16). -/
theorem fmax_nan {x : F64} (y : F64) (h : x.isNaN = true) : fmax x y = nan := by simp [fmax, h]

theorem fmin_nan {x : F64} (y : F64) (h : x.isNaN = true) : fmin x y = nan := by simp [fmin, h]

/-- A clamp that answers a number answers one between its bounds (R26). -/
theorem clamp_between {v lo hi : F64} (hlohi : le lo hi = true) (h : (clamp v lo hi).isNaN = false) :
    le lo (clamp v lo hi) = true ∧ le (clamp v lo hi) hi = true := by
  obtain ⟨hlo, hhi, -⟩ := le_iff.mp hlohi
  unfold clamp at h ⊢
  cases hv : v.isNaN with
  | true =>
    rw [fmax_nan lo hv, fmin_nan hi (by decide)] at h
    cases h
  | false =>
    obtain ⟨-, -, hge⟩ := fmax_spec hv hlo
    have hnum : (fmax v lo).isNaN = false := (le_iff.mp hge).2.1
    obtain ⟨hmin, -, hle⟩ := fmin_spec hnum hhi
    refine ⟨?_, hle⟩
    rcases hmin with e | e <;> rw [e]
    · exact hge
    · exact hlohi

end Sys2Proof.F64

namespace Sys2Proof.Machine

set_option Elab.async false

open F64

/-! ### The frame of a command that computes its results (R116, R118, R412) -/

/-- A command whose computation cannot fault completes where the values it reads and writes are finite, and takes BAD_ARG
elsewhere. -/
theorem runCommand_checked {w : Word} {args written : List F64} {s t : State} {ok : Bool} (hf : s.fault = false)
    (hok : (args.all F64.isFinite && written.all F64.isFinite) = ok) :
    runCommand w args s (.ok (t, written)) = if ok then t else raiseFault .badArg w s := by
  subst hok
  cases ha : args.all F64.isFinite <;> cases hw : written.all F64.isFinite <;> simp [runCommand, commit, hf, ha, hw]

/-! ### DL.PUSH (R190, R191) -/

theorem DelayLine.out_eq {α : Type} (d : DelayLine α) (dflt : α) (h : d.ptr < d.buf.length) : d.out dflt = d.buf[d.ptr] :=
  List.getD_eq_getElem _ _ h

theorem dlPushTim_eq {s : State} (hf : s.fault = false) (h : s.dp.dlTim.ptr < s.dp.dlTim.buf.length)
    (hcell : (s.dp.dlTim.buf[s.dp.dlTim.ptr]).isFinite = true) :
    dlPushTim s = if s.arg0.isFinite then { s with dp.dlTim := s.dp.dlTim.push s.arg0 }.setRes0 s.dp.dlTim.buf[s.dp.dlTim.ptr]
      else raiseFault .badArg 0x20000000 s := by
  rw [dlPushTim, DelayLine.out_eq _ _ h]
  exact runCommand_checked hf (by simp [hcell])

theorem dlPushSym_eq {s : State} (hf : s.fault = false) (h : s.dp.dlSym.ptr < s.dp.dlSym.buf.length)
    (hcell : (s.dp.dlSym.buf[s.dp.dlSym.ptr]).isFinite = true) :
    dlPushSym s = if s.arg0.isFinite && s.arg1.isFinite then
        { s with dp.dlSym := s.dp.dlSym.push s.argZ }.setRes s.dp.dlSym.buf[s.dp.dlSym.ptr]
      else raiseFault .badArg 0x20100000 s := by
  obtain ⟨hre, him⟩ := Cplx.isFinite_iff.mp hcell
  rw [dlPushSym, DelayLine.out_eq _ _ h]
  exact runCommand_checked hf (by simp [hre, him])

/-! ### MF.PUSH (R211, R212) -/

theorem shiftIn_eq {n : Nat} {h : List F64} (x : F64) (hn : 1 ≤ n) (hl : h.length = n) : shiftIn n h x = x :: h.dropLast := by
  obtain ⟨m, rfl⟩ := Nat.exists_eq_add_of_le' hn
  rw [shiftIn, List.take_succ_cons, List.dropLast_eq_take, hl, Nat.add_sub_cancel]

/-- The sum over the paired lists is the sum over their indices (R211). -/
theorem firSum_eq_armSum {n : Nat} {taps hist : List F64} (ht : taps.length = n) (hh : hist.length = n) :
    firSum taps hist = armSum n taps hist := by
  have hzip : taps.zip hist = (List.range n).map fun i => (taps.getD i zero, hist.getD i zero) := by
    refine List.ext_getElem (by simp [ht, hh]) fun i hi _ => ?_
    rw [List.length_zip, ht, hh, min_self] at hi
    simp [ht, hh, hi]
  rw [firSum, hzip, List.foldl_map]
  rfl

/-- A history shifted by one is finite exactly when its newest value is (R211). -/
theorem all_isFinite_shifted {h : List F64} (x : F64) (hh : ∀ y ∈ h, y.isFinite = true) :
    (x :: h.dropLast).all F64.isFinite = x.isFinite := by
  have hold : h.dropLast.all F64.isFinite = true := List.all_eq_true.mpr fun y hy => hh y (List.mem_of_mem_dropLast hy)
  rw [List.all_cons, hold, Bool.and_true]

theorem mfPush_eq {s : State} (hf : s.fault = false) {f : MatchedFilter} (hpush : s.dp.mf.push s.dp.nmf s.argZ = f)
    (hr : f.hr.all F64.isFinite = s.arg0.isFinite) (hi : f.hi.all F64.isFinite = s.arg1.isFinite) :
    mfPush s = if s.arg0.isFinite && s.arg1.isFinite && f.out.re.isFinite && f.out.im.isFinite then
        { s with dp.mf := f }.setRes f.out
      else raiseFault .badArg 0x21000000 s := by
  rw [mfPush, hpush]
  refine runCommand_checked hf ?_
  simp only [List.all_append, hr, hi, List.all_cons, List.all_nil, Bool.and_true]
  cases s.arg0.isFinite <;> cases s.arg1.isFinite <;> rfl

/-! ### EMA.PUSH (R195, R196) -/

theorem emaPush_eq (k : EmaId) {s : State} (hf : s.fault = false) :
    emaPush k s = if s.arg0.isFinite && ((s.ema k).push s.arg0).y.isFinite then
        (s.setEma k ((s.ema k).push s.arg0)).setRes0 ((s.ema k).push s.arg0).y
      else raiseFault .badArg (cmdWord 0x22 k.unit) s :=
  runCommand_checked hf (by simp)

/-! ### RES.PUSH and AGC.PUSH (R205, R207, R216, R217) -/

theorem resPush_eq {s : State} (hf : s.fault = false) (hs1 : s.dp.res.s1.isFinite = true) :
    resPush s = if s.arg0.isFinite && (s.dp.res.out s.arg0).isFinite then
        { s with dp.res := s.dp.res.push s.arg0 }.setRes0 (s.dp.res.out s.arg0)
      else raiseFault .badArg 0x23000000 s :=
  runCommand_checked hf (by simp [Resonator.push, hs1])

theorem agcPush_eq {s : State} (hf : s.fault = false) :
    agcPush s = if s.arg0.isFinite && s.arg1.isFinite && (s.dp.agc.push s.argZ).m.isFinite &&
          ((s.dp.agc.push s.argZ).out s.argZ).re.isFinite && ((s.dp.agc.push s.argZ).out s.argZ).im.isFinite then
        { s with dp.agc := s.dp.agc.push s.argZ }.setRes ((s.dp.agc.push s.argZ).out s.argZ)
      else raiseFault .badArg 0x24000000 s :=
  runCommand_checked hf (by simp [Bool.and_assoc])

/-! ### SB.QUANT (R336, R337) -/

/-- The value that the quantizer rounds, 127.5 + 510.0 × v (R336). -/
def softScaled (v : F64) : F64 := F64.add ⟨0x405FE00000000000⟩ (F64.mul ⟨0x407FE00000000000⟩ v)

/-- The level of a soft value (R336). -/
def softLevel (v : F64) : Int :=
  if F64.le ⟨0x406FE00000000000⟩ (softScaled v) then 255
  else if F64.le (softScaled v) zero then 0
  else (softScaled v).rne

/-- The scaled value of a finite one may overflow, but it is no NaN. -/
theorem softScaled_not_isNaN {v : F64} (h : v.isFinite = true) : (softScaled v).isNaN = false :=
  add_not_isNaN (by decide) (mul_not_isNaN (by decide) h)

theorem toReal_255 : F64.toReal ⟨0x406FE00000000000⟩ = 255 := by
  rw [toReal_of_fields (m := 255 * 2 ^ 45) (e := -45) (by decide)]; norm_num

/-- Between 0 and 255, rounding to the nearest integer stays there. -/
theorem rne_softScaled_between {v : F64} (h : v.isFinite = true) (hhi : ¬F64.le ⟨0x406FE00000000000⟩ (softScaled v) = true)
    (hlo : ¬F64.le (softScaled v) zero = true) : 0 ≤ (softScaled v).rne ∧ (softScaled v).rne ≤ 255 := by
  have hnum := softScaled_not_isNaN h
  have hle := le_of_not_le (by decide) hnum hhi
  have hge := le_of_not_le hnum (by decide) hlo
  have hle' := toReal_le_of_le hle
  have hge' := toReal_le_of_le hge
  rw [toReal_255] at hle'
  rw [toReal_zero] at hge'
  have hfin := isFinite_of_between (by decide) (by decide) hge hle
  exact int_between_of_abs_sub_le (abs_rne_sub_le hfin) (by simpa using hge') (by simpa using hle')

theorem softLevel_between {v : F64} (h : v.isFinite = true) : 0 ≤ softLevel v ∧ softLevel v ≤ 255 := by
  unfold softLevel
  split_ifs with hhi hlo
  · decide
  · decide
  · exact rne_softScaled_between h hhi hlo

theorem toNat_byte {n : Int} (h : 0 ≤ n ∧ n ≤ 255) : (((BitVec.ofInt 8 n).zeroExtend 16).toNat : Int) = n := by
  rw [BitVec.zeroExtend, BitVec.toNat_setWidth, BitVec.toNat_ofInt]
  omega

/-- The byte of a finite value is its level; the free byte of a NaN is not used (log 11). -/
theorem quant_toNat {v : F64} (h : v.isFinite = true) (free : BitVec 8) : ((quant free v).toNat : Int) = softLevel v := by
  have hnum := softScaled_not_isNaN h
  have hquant : quant free v = if F64.le ⟨0x406FE00000000000⟩ (softScaled v) then 255
      else if F64.le (softScaled v) zero then 0
      else if (softScaled v).isNaN then free.zeroExtend 16 else (BitVec.ofInt 8 (softScaled v).rne).zeroExtend 16 := rfl
  rw [hquant, softLevel, hnum, if_neg Bool.false_ne_true]
  split_ifs with hhi hlo
  · rfl
  · rfl
  · exact toNat_byte (rne_softScaled_between h hhi hlo)

theorem sbQuant_eq {s : State} (hf : s.fault = false) :
    sbQuant s = if s.arg0.isFinite then
        s.setRes0 (F64.ofNat (quant (Config.quantNaN Cplx.zero Cplx.zero Cplx.zero) s.arg0).toNat)
      else raiseFault .badArg 0x25000000 s := by
  have hfin := ofNat_finite (quant_le (Config.quantNaN Cplx.zero Cplx.zero Cplx.zero) s.arg0)
  exact runCommand_checked hf (by simp [hfin])

/-! ### QG.SLICE (R321, R323) -/

/-- The sign of a finite value: -1.0 below zero, +1.0 elsewhere (R26). -/
theorem sgn_eq {x : F64} (h : x.isFinite = true) : sgn x = if lt x zero then negOne else one := by
  have hz : zero.isNaN = false ∧ zero.key = 0 := by decide
  have hle : le zero x = !lt x zero := by
    rw [Bool.eq_iff_iff, Bool.not_eq_true', ← Bool.not_eq_true, le_iff, lt_iff]
    simp [isFinite_not_isNaN h, hz]
  rw [sgn, hle]
  cases lt x zero <;> rfl

/-- A sign is -1.0 or +1.0, whatever the value (R26). -/
theorem exists_sgn_eq (x : F64) : ∃ a : Bool, sgn x = if a then negOne else one := by
  unfold sgn
  cases le zero x
  · exact ⟨true, rfl⟩
  · exact ⟨false, rfl⟩

/-- The decision code of a pair of signs (R323). -/
theorem sliceCode_signs (a b : Bool) :
    sliceCode ⟨if a then negOne else one, if b then negOne else one⟩ = ofNat ((if a then 1 else 0) + if b then 2 else 0) := by
  cases a <;> cases b <;> decide +kernel

theorem sliceCode_slice_finite (z : Cplx) : (sliceCode (slice z).2).isFinite = true := by
  obtain ⟨a, ha⟩ := exists_sgn_eq z.re
  obtain ⟨b, hb⟩ := exists_sgn_eq z.im
  rw [show (slice z).2 = ⟨sgn z.re, sgn z.im⟩ from rfl, ha, hb, sliceCode_signs]
  exact ofNat_finite (by cases a <;> cases b <;> decide)

theorem qgSlice_eq {s : State} (hf : s.fault = false) :
    qgSlice s = if s.arg0.isFinite && s.arg1.isFinite && (slice s.argZ).1.isFinite then
        s.setRes ⟨(slice s.argZ).1, sliceCode (slice s.argZ).2⟩
      else raiseFault .badArg 0x26000000 s :=
  runCommand_checked hf (by simp [sliceCode_slice_finite])

end Sys2Proof.Machine

namespace Sys2Proof.Settled

set_option Elab.async false

open Sys2Proof.Machine F64

/-- Settles O37: each line in the frame of a command, with its cell read inside the line. -/
theorem dlPush : Obligations.DlPush := fun _ hf =>
  ⟨fun h hcell => congrArg _ (dlPushTim_eq hf h hcell), fun h hcell => congrArg _ (dlPushSym_eq hf h hcell)⟩

/-- Settles O38: the shifted histories are finite where the arguments are, and each arm is the sum over its indices. -/
theorem mfPush : Obligations.MfPush := by
  intro s hf hn htaps hhr hhi hfin hr hi yr yi
  have hfin' := List.forall_mem_append.mp hfin
  have hlen {l : List F64} (x : F64) (hl : l.length = s.dp.nmf) : (x :: l.dropLast).length = s.dp.nmf := by
    rw [List.length_cons, List.length_dropLast, hl]; omega
  have hpush : s.dp.mf.push s.dp.nmf s.argZ = { s.dp.mf with hr := hr, hi := hi } := by
    rw [MatchedFilter.push, shiftIn_eq _ hn hhr, shiftIn_eq _ hn hhi]
    rfl
  have hout : MatchedFilter.out { s.dp.mf with hr := hr, hi := hi } = ⟨yr, yi⟩ :=
    congrArg₂ Cplx.mk (firSum_eq_armSum htaps (hlen _ hhr)) (firSum_eq_armSum htaps (hlen _ hhi))
  have h := mfPush_eq hf hpush (all_isFinite_shifted _ hfin'.1) (all_isFinite_shifted _ hfin'.2)
  rw [hout] at h
  exact congrArg _ h

/-- Settles O39: the four averagers are the units of one command. -/
theorem emaPush : Obligations.EmaPush := fun _ hf =>
  ⟨congrArg _ (emaPush_eq .btS hf), congrArg _ (emaPush_eq .btL hf), congrArg _ (emaPush_eq .qgMse hf),
    congrArg _ (emaPush_eq .ted hf)⟩

/-- Settles O40: the old s1, which s2 takes, is finite, so only the argument and s' are checked. -/
theorem resPush : Obligations.ResPush := fun _ hf hs1 => congrArg _ (resPush_eq hf hs1)

/-- Settles O41: a completed push has finite parts, and a finite clamp lies between its bounds. -/
theorem agcPush : Obligations.AgcPush := by
  intro s hf z m gn part ok
  refine ⟨congrArg _ (agcPush_eq hf), fun hok x hx => ?_⟩
  simp only [ok, Bool.and_eq_true] at hok
  obtain ⟨⟨-, hre⟩, him⟩ := hok
  have hrange (y : F64) (hy : (part y).isFinite = true) := clamp_between (v := gn.mul y) (lo := ⟨0xC010000000000000⟩)
    (hi := ⟨0x4010000000000000⟩) (by decide) (isFinite_not_isNaN hy)
  rcases List.mem_pair.mp hx with rfl | rfl
  · exact hrange _ hre
  · exact hrange _ him

/-- Settles O42: a finite argument has a level, and a level is a byte, so the commit check passes. -/
theorem sbQuant : Obligations.SbQuant := by
  intro s hf t n
  have hexec := sbQuant_eq hf
  split_ifs with h
  · rw [if_pos h, F64.ofNat, quant_toNat h] at hexec
    exact ⟨congrArg _ hexec, softLevel_between h⟩
  · rw [if_neg h] at hexec
    exact congrArg _ hexec

/-- Settles O43: for finite arguments the model's signs are those of the statement. -/
theorem qgSlice : Obligations.QgSlice := by
  intro s hf neg sg er ei err code
  refine congrArg _ ((qgSlice_eq hf).trans ?_)
  by_cases hargs : s.arg0.isFinite = true ∧ s.arg1.isFinite = true
  · obtain ⟨h0, h1⟩ := hargs
    have hslice : slice s.argZ = (err, ⟨sg s.arg0, sg s.arg1⟩) := by
      have hre : sgn s.arg0 = sg s.arg0 := sgn_eq h0
      have him : sgn s.arg1 = sg s.arg1 := sgn_eq h1
      simp only [slice, State.argZ, hre, him]
      rfl
    have hcode : sliceCode ⟨sg s.arg0, sg s.arg1⟩ = code := sliceCode_signs _ _
    rw [hslice, hcode]
    rfl
  · have hbad : (s.arg0.isFinite && s.arg1.isFinite) = false := by rwa [← Bool.not_eq_true, Bool.and_eq_true]
    simp only [hbad, Bool.false_and, Bool.false_eq_true, if_false]

end Sys2Proof.Settled
end

section
/-! SUPPORT. Advancing an oscillator and reading its pass detector (40_nco.md R151, R154, R156, R163, R166 to R168): statements O30,
O33, O34 and O35. -/

namespace Sys2Proof.Machine

-- One theorem at a time: elaborated side by side, they ask for more threads than the memory limit allows.
set_option Elab.async false

/-! ### NCO.ADVANCE and NCO.PASSED (R154, R156, R163, R166) -/

theorem Osc.advance_eq_movedForward (o : Osc) : o.advance = o.movedForward o.ftw := o.fwd_eq_movedForward o.ftw

theorem ncoAdvance_eq (k : OscId) {s : State} (hf : s.fault = false) :
    ncoAdvance k s = s.setOsc k ((s.osc k).movedForward (s.osc k).ftw) := by
  rw [← Osc.advance_eq_movedForward]
  exact runCommand_ok hf rfl rfl rfl

theorem ncoPassed_eq (k : OscId) {s : State} (hf : s.fault = false) :
    ncoPassed k s = (s.setOsc k (s.osc k).consumeLatch).setRes0 (if (s.osc k).latch then F64.one else F64.zero) := by
  refine runCommand_ok hf rfl rfl ?_
  split <;> decide

/-! ### The accumulated phase (R154, R167, R168) -/

theorem Osc.accumulated_succ (o : Osc) (n : ℕ) : o.accumulated (n + 1) = o.accumulated n + o.ftw.toNat := by
  rw [Osc.accumulated, Osc.accumulated, Nat.succ_mul, Nat.add_assoc]

theorem Osc.advance_phase_toNat (o : Osc) : o.advance.phase.toNat = (o.phase.toNat + o.ftw.toNat) % 2 ^ 32 := by
  rw [Osc.advance_phase, BitVec.toNat_add]

/-- An advance wraps the phase and keeps the rest of what the next one depends on, so n of them wrap the accumulated phase. -/
theorem Osc.advance_iterate (o : Osc) (n : ℕ) :
    (Osc.advance^[n] o).phase.toNat = o.accumulated n % 2 ^ 32 ∧
      (Osc.advance^[n] o).ftw = o.ftw ∧ (Osc.advance^[n] o).point = o.point := by
  induction n with
  | zero => exact ⟨by simp [Osc.accumulated, Nat.mod_eq_of_lt o.phase.isLt], rfl, rfl⟩
  | succ n ih =>
    obtain ⟨hphase, hftw, hpoint⟩ := ih
    rw [Function.iterate_succ_apply']
    refine ⟨?_, by rw [Osc.advance_ftw, hftw], by rw [Osc.advance_point, hpoint]⟩
    rw [Osc.advance_phase_toNat, hphase, hftw, Osc.accumulated_succ, Nat.mod_add_mod]

/-- The tuning word of 1800 Hz at 48000 Hz (R167). -/
theorem turnWord_1800_48000 : turnWord (F64.div ⟨0x409C200000000000⟩ ⟨0x40E7700000000000⟩) = 0x0999999A := by
  decide +kernel

/-! ### The pass detector over one advance (R151, R168) -/

/-- What makes the detector exact: a disarmed oscillator lies in the half cycle from the point up to its antipode, so it
crosses the antipode, which re-arms it, before it meets the point again (R168). -/
def Osc.DisarmedBeforeAntipode (o : Osc) : Prop :=
  o.armed = false → forwardDistance o.point.toNat o.phase.toNat < 2 ^ 31

theorem forwardDistance_antipode_lt {a p : ℕ} (ha : a < 2 ^ 32) (hp : p < 2 ^ 32) (h : forwardDistance p a < 2 ^ 31)
    (hd : 1 ≤ forwardDistance a p) :
    1 ≤ forwardDistance a ((p + 2 ^ 31) % 2 ^ 32) ∧ forwardDistance a ((p + 2 ^ 31) % 2 ^ 32) < forwardDistance a p := by
  unfold forwardDistance at *
  omega

/-- Under the invariant a move latches exactly where it crosses the point: a disarmed oscillator is re-armed on its way. -/
theorem Osc.movedForward_latch {o : Osc} (h : o.DisarmedBeforeAntipode) (hl : o.latch = false) (l : Word) :
    (o.movedForward l).latch = true ↔
      1 ≤ forwardDistance o.phase.toNat o.point.toNat ∧ forwardDistance o.phase.toNat o.point.toNat ≤ l.toNat := by
  simp only [Osc.movedForward, hl, Bool.false_or, decide_eq_true_eq, and_iff_left_iff_imp]
  rintro ⟨hpos, hle⟩
  cases ha : o.armed with
  | true => exact .inl rfl
  | false =>
    obtain ⟨hApos, hAlt⟩ := forwardDistance_antipode_lt o.phase.isLt o.point.isLt (h ha) hpos
    exact .inr ⟨⟨hApos, hAlt.le.trans hle⟩, hAlt⟩

/-- A move ends disarmed only where the point is the last mark it crossed, or where it crossed neither and began disarmed;
in both it has not reached the antipode. -/
theorem Osc.movedForward_disarmedBeforeAntipode {o : Osc} (h : o.DisarmedBeforeAntipode) (l : Word) :
    (o.movedForward l).DisarmedBeforeAntipode := by
  have ha := o.phase.isLt
  have hp := o.point.isLt
  have hl := l.isLt
  intro harmed
  simp only [Osc.movedForward, BitVec.toNat_ofNat] at harmed ⊢
  split_ifs at harmed with hboth hpoint hanti
  · have hlast := of_decide_eq_false harmed
    unfold forwardDistance at hboth hlast ⊢
    omega
  · unfold forwardDistance at hboth hpoint ⊢
    omega
  · have hbefore := h harmed
    unfold forwardDistance at hpoint hanti hbefore ⊢
    omega

/-! ### The pass detector over a run (R156, R168) -/

theorem Osc.ticks_succ (o : Osc) (n : ℕ) : o.ticks (n + 1) = (o.ticks n).advance.consumeLatch := rfl

theorem Osc.report_eq (o : Osc) (n : ℕ) : o.report n = (o.ticks n).advance.latch := rfl

theorem Osc.ticks_latch {o : Osc} (hl : o.latch = false) : ∀ n, (o.ticks n).latch = false
  | 0 => hl
  | _ + 1 => rfl

/-- passed() touches the latch alone, so the ticks move as the advances do. -/
theorem Osc.ticks_eq_advance_iterate (o : Osc) (n : ℕ) :
    (o.ticks n).phase = (Osc.advance^[n] o).phase ∧ (o.ticks n).ftw = o.ftw ∧ (o.ticks n).point = o.point := by
  induction n with
  | zero => exact ⟨rfl, rfl, rfl⟩
  | succ n ih =>
    obtain ⟨hphase, hftw, hpoint⟩ := ih
    rw [Osc.ticks_succ, Function.iterate_succ_apply']
    simp [hphase, hftw, hpoint, o.advance_iterate n]

theorem Osc.ticks_phase_toNat (o : Osc) (n : ℕ) : (o.ticks n).phase.toNat = o.accumulated n % 2 ^ 32 := by
  rw [(o.ticks_eq_advance_iterate n).1, (o.advance_iterate n).1]

theorem Osc.ticks_disarmedBeforeAntipode {o : Osc} (h : o.DisarmedBeforeAntipode) (n : ℕ) :
    (o.ticks n).DisarmedBeforeAntipode := by
  induction n with
  | zero => exact h
  | succ n ih =>
    have hmoved := Osc.movedForward_disarmedBeforeAntipode ih (o.ticks n).ftw
    rw [← Osc.advance_eq_movedForward] at hmoved
    exact hmoved

/-- Tick n reports a pass exactly when the point is ahead of the wrapped phase by at most the tuning word. -/
theorem Osc.report_iff_distance {o : Osc} (ha : o.armed = true) (hl : o.latch = false) (n : ℕ) :
    o.report n = true ↔ 1 ≤ forwardDistance (o.accumulated n % 2 ^ 32) o.point.toNat ∧
      forwardDistance (o.accumulated n % 2 ^ 32) o.point.toNat ≤ o.ftw.toNat := by
  obtain ⟨-, hftw, hpoint⟩ := o.ticks_eq_advance_iterate n
  have hinv : o.DisarmedBeforeAntipode := fun hd => absurd (ha.symm.trans hd) (by decide)
  rw [Osc.report_eq, Osc.advance_eq_movedForward,
    Osc.movedForward_latch (Osc.ticks_disarmedBeforeAntipode hinv n) (Osc.ticks_latch hl n), Osc.ticks_phase_toNat, hftw, hpoint]

/-! ### Counting the crossings (R168) -/

/-- How many of the marks p, p + 2^32, p + 2 × 2^32, ... an accumulated phase `a` has reached. -/
def marksReached (p a : ℕ) : ℕ := (a + 2 ^ 32 - p) / 2 ^ 32

theorem exists_mark_between_iff {p : ℕ} (hp : p < 2 ^ 32) (a b : ℕ) :
    (∃ j : ℕ, a < p + j * 2 ^ 32 ∧ p + j * 2 ^ 32 ≤ b) ↔ marksReached p a < marksReached p b := by
  unfold marksReached
  constructor
  · rintro ⟨j, hlo, hhi⟩
    omega
  · intro h
    exact ⟨(a + 2 ^ 32 - p) / 2 ^ 32, by omega, by omega⟩

/-- A move of less than a cycle reaches one new mark where the point is ahead of it by at most its length, and else none. -/
theorem marksReached_add {p l : ℕ} (hp : p < 2 ^ 32) (hl : l < 2 ^ 32) (a : ℕ) :
    marksReached p (a + l) = marksReached p a +
      if 1 ≤ forwardDistance (a % 2 ^ 32) p ∧ forwardDistance (a % 2 ^ 32) p ≤ l then 1 else 0 := by
  unfold marksReached forwardDistance
  split_ifs <;> omega

/-- Each report is one more mark reached. -/
theorem Osc.marksReached_succ {o : Osc} (ha : o.armed = true) (hl : o.latch = false) (n : ℕ) :
    marksReached o.point.toNat (o.accumulated (n + 1)) =
      marksReached o.point.toNat (o.accumulated n) + if o.report n = true then 1 else 0 := by
  rw [Osc.accumulated_succ, marksReached_add o.point.isLt o.ftw.isLt]
  simp only [Osc.report_iff_distance ha hl]

theorem Osc.marksReached_accumulated {o : Osc} (ha : o.armed = true) (hl : o.latch = false) (n : ℕ) :
    marksReached o.point.toNat (o.accumulated n) = marksReached o.point.toNat o.phase.toNat + o.reports n := by
  induction n with
  | zero => simp [Osc.accumulated, Osc.reports]
  | succ n ih => rw [Osc.marksReached_succ ha hl, ih, Osc.reports, Nat.add_assoc]

end Sys2Proof.Machine

namespace Sys2Proof.Settled

set_option Elab.async false

open Sys2Proof.Machine

/-- Settles O30: an advance is the forward move by the tuning word, and it writes no real, so the commit check passes. -/
theorem ncoAdvance : Obligations.NcoAdvance := fun _ hf => each_oscillator fun k => ncoAdvance_eq k hf

/-- Settles O33: the report is 1.0 or 0.0, both finite, so the command always completes. -/
theorem ncoPassed : Obligations.NcoPassed := fun _ hf => each_oscillator fun k => ncoPassed_eq k hf

/-- Settles O34: the accumulated phase, wrapped; the example is its instance at the tuning word of 1800 Hz. -/
theorem phaseAfterAdvances : Obligations.PhaseAfterAdvances := by
  refine ⟨Osc.advance_iterate, fun o hphase hftw => BitVec.eq_of_toNat_eq ?_⟩
  rw [(o.advance_iterate 48000).1, Osc.accumulated, hphase, hftw, turnWord_1800_48000]
  decide

/-- Settles O35: by the invariant each report is one mark reached, and reports and marks are counted together. -/
theorem oncePerCycle : Obligations.OncePerCycle := by
  intro o ha hl _
  constructor
  · intro n
    rw [exists_mark_between_iff o.point.isLt, Osc.marksReached_succ ha hl]
    cases o.report n <;> simp
  · intro n
    exact Nat.eq_sub_of_add_eq' (Osc.marksReached_accumulated ha hl n).symm

end Sys2Proof.Settled
end

section
/-! SUPPORT. A delay line is a queue (41_filters.md R190): statement O36. -/

namespace Sys2Proof.Machine

-- One theorem at a time: elaborated side by side, they ask for more threads than the memory limit allows.
set_option Elab.async false

/-- The cells read from the pointer on, which is oldest first, begin with the value that a push takes out. -/
theorem DelayLine.rotate_eq_out_cons {α : Type} (d : DelayLine α) (dflt : α) (h : d.ptr < d.buf.length) :
    d.buf.rotate d.ptr = d.out dflt :: (d.buf.drop (d.ptr + 1) ++ d.buf.take d.ptr) := by
  rw [List.rotate_eq_drop_append_take h.le, List.drop_eq_getElem_cons h, d.out_eq dflt h, List.cons_append]

/-- A push puts the value behind the others, as the newest (R190). -/
theorem DelayLine.rotate_push {α : Type} (d : DelayLine α) (x : α) (h : d.ptr < d.buf.length) :
    (d.push x).buf.rotate (d.push x).ptr = d.buf.drop (d.ptr + 1) ++ d.buf.take d.ptr ++ [x] := by
  have hwrap : (d.push x).buf.rotate (d.push x).ptr = (d.buf.set d.ptr x).rotate (d.ptr + 1) := by
    rw [← List.rotate_mod (d.buf.set d.ptr x), List.length_set]
    rfl
  have hlen : d.ptr + 1 ≤ (d.buf.set d.ptr x).length := by rw [List.length_set]; exact h
  have htake : (d.buf.set d.ptr x).take (d.ptr + 1) = d.buf.take d.ptr ++ [x] := by
    rw [← List.take_append_getElem (by rwa [List.length_set]), List.getElem_set_self, List.take_set_of_le le_rfl]
  rw [hwrap, List.rotate_eq_drop_append_take hlen, htake, List.drop_set_of_lt (Nat.lt_succ_self _), List.append_assoc]

/-- The outputs are the cells from the pointer on, then the values pushed, as many as were pushed (R190). -/
theorem DelayLine.outputs_eq {α : Type} (dflt : α) (xs : List α) (d : DelayLine α) (h : d.ptr < d.buf.length) :
    d.outputs dflt xs = (d.buf.rotate d.ptr ++ xs).take xs.length := by
  induction xs generalizing d with
  | nil => rfl
  | cons x xs ih =>
    have hpush := d.push_ptr_lt x (Nat.zero_lt_of_lt h)
    rw [DelayLine.outputs, ih (d.push x) (by rwa [d.push_length]), d.rotate_push x h, d.rotate_eq_out_cons dflt h,
      List.append_assoc, List.singleton_append, List.length_cons, List.cons_append, List.take_succ_cons]

end Sys2Proof.Machine

namespace Sys2Proof.Settled

set_option Elab.async false

open Sys2Proof.Machine

/-- Settles O36: the outputs are those of a queue that begins with `len` initial values. -/
theorem delayLineIsExact : Obligations.DelayLineIsExact := by
  intro α zero len xs hlen
  rw [DelayLine.outputs_eq zero xs _ (by rwa [List.length_replicate]), List.rotate_replicate]

end Sys2Proof.Settled
end

section
/-! SUPPORT. The sample step in the closed form of the rules, and the ordinary sample of burst mode (45_sample_pipeline.md R350 to
R354; 60_exceptions.md R412): statement O44. -/

namespace Sys2Proof.F64

-- One theorem at a time: elaborated side by side, they ask for more threads than the memory limit allows.
set_option Elab.async false

/-! ### Eb/N0 is finite (R330) -/

theorem toReal_ten : ten.toReal = 10 := by
  rw [toReal_of_fields (m := 5 * 2 ^ 50) (e := -49) (by decide)]; norm_num

theorem toReal_324 : F64.toReal ⟨0x4074400000000000⟩ = 324 := by
  rw [toReal_of_fields (m := 81 * 2 ^ 46) (e := -44) (by decide)]; norm_num

theorem toReal_309 : F64.toReal ⟨0x4073500000000000⟩ = 309 := by
  rw [toReal_of_fields (m := 309 * 2 ^ 44) (e := -44) (by decide)]; norm_num

/-- The range log10 is held to (R17; log 6). -/
theorem log10_range (x : F64) : le ⟨0xC074400000000000⟩ (Config.log10 x) = true ∧ le (Config.log10 x) ⟨0x4073500000000000⟩ = true :=
  Config.within_spec (by decide)

theorem abs_log10_le (x : F64) : |(Config.log10 x).toReal| ≤ 324 := by
  have hlo := toReal_le_of_le (log10_range x).1
  have hhi := toReal_le_of_le (log10_range x).2
  rw [show (⟨0xC074400000000000⟩ : F64) = neg ⟨0x4074400000000000⟩ by decide, toReal_neg, toReal_324] at hlo
  rw [toReal_309] at hhi
  exact abs_le.mpr ⟨hlo, by linarith⟩

/-- Eb/N0 is finite for every MSE (R330). -/
theorem ebnoOf_finite (m : F64) : (Machine.ebnoOf m).isFinite = true := by
  have hrange := log10_range (one.div (fmax m ⟨0x3DDB7CDFD9D7BDBB⟩))
  have hfin := isFinite_of_between (by decide) (by decide) hrange.1 hrange.2
  refine ((rounds_mul (x := ten) (by decide) hfin).abs_le_two_pow (k := 12) (by norm_num) ?_).1
  rw [abs_mul, toReal_ten, abs_of_pos (by norm_num : (0 : ℝ) < 10)]
  linarith [abs_log10_le (one.div (fmax m ⟨0x3DDB7CDFD9D7BDBB⟩))]

end Sys2Proof.F64

namespace Sys2Proof.Machine

set_option Elab.async false

open F64

/-! ### The commit check of a sample (R412) -/

/-- A cell, or the default of a missing one, has a property that all the cells and the default have. -/
theorem getD_of_forall_mem {α : Type} {P : α → Prop} {l : List α} {d : α} (hl : ∀ y ∈ l, P y) (hd : P d) (i : ℕ) :
    P (l.getD i d) := by
  rcases lt_or_ge i l.length with hi | hi
  · rw [List.getD_eq_getElem _ _ hi]; exact hl _ (List.getElem_mem hi)
  · rwa [List.getD_eq_default _ _ hi]

/-- What the commit check of a sample reads is part of the datapath, or the +0.0 of a missing cell (log 23). -/
theorem Datapath.AllFinite.sampleWrites {new : Datapath} (h : new.AllFinite) (modeCont : Bool) (old : Datapath) :
    (sampleWrites modeCont old new).all F64.isFinite = true := by
  have hcell {l : List Cplx} (hl : ∀ z ∈ l, z.isFinite = true) (i : ℕ) : (l.getD i Cplx.zero).isFinite = true :=
    getD_of_forall_mem (P := fun z : Cplx => z.isFinite = true) hl (by decide) i
  have htim := getD_of_forall_mem (P := fun x : F64 => x.isFinite = true) h.dlTim (d := zero) (by decide) old.dlTim.ptr
  exact sampleWrites_finite_iff.mpr
    ⟨h.scalars, h.hr, h.hi, hcell h.dlSym _, htim, hcell h.acqBuf _, hcell h.frame _, fun _ => h.mags⟩

/-- On a finite state the commit check of a sample passes exactly where all of the new datapath is finite. -/
theorem State.sampleWrites_all_eq {s t : State} {i q : Int} (hs : s.AllFinite) (h : s.sampleCore i q = .ok t) :
    (sampleWrites s.act.modeCont s.dp t.dp).all F64.isFinite = t.dp.reals.all F64.isFinite := by
  rw [Bool.eq_iff_iff, List.all_eq_true (l := t.dp.reals), Datapath.allFinite_iff]
  exact ⟨fun hw => (State.sampleCore_allFinite hs h hw).dp, fun hd => hd.sampleWrites _ _⟩

section Accepted

variable {s : State} {i q : Int} (hf : s.fault = false) (hroom : s.fifo.length ≤ 60)

include hf hroom

theorem runSample_of_error {c : FaultCode} (h : s.sampleCore i q = .error c) :
    runSample i q s = raiseFault c (sampleWord i q) s := by
  simp [runSample, hf, backPressure_eq_false_iff.mpr hroom, h]

theorem runSample_of_ok {t : State} (h : s.sampleCore i q = .ok t) :
    runSample i q s = commit (sampleWord i q) s t (sampleWrites s.act.modeCont s.dp t.dp) := by
  simp [runSample, hf, backPressure_eq_false_iff.mpr hroom, h]

end Accepted

/-! ### The stages in closed form (R205, R211, R290 to R294, R331, R350) -/

theorem State.stageAgc_eq (s : State) (z : Cplx) :
    s.stageAgc z = (agcLevelled (s.dp.agc.push z).m z, { s with dp.agc := s.dp.agc.push z }) := rfl

theorem State.stageMix_eq (s : State) (ya : Cplx) : s.stageMix ya =
    (Cplx.mulconj ya (phasor s.dp.mix.phase), { s with dp.mix := s.dp.mix.movedForward s.dp.mix.ftw }) := by
  rw [← Osc.advance_eq_movedForward]; rfl

theorem State.stageCarrier_eq (s : State) (xm : Cplx) : s.stageCarrier xm =
    (Cplx.mulconj xm (phasor s.dp.car.phase), { s with dp.car := s.dp.car.movedForward s.dp.car.ftw }) := by
  rw [← Osc.advance_eq_movedForward]; rfl

/-- One arm of the matched filter sums the products pairwise (R211). -/
theorem firSum_eq_foldl_zipWith (taps hist : List F64) : firSum taps hist = (List.zipWith F64.mul taps hist).foldl F64.add ⟨0⟩ := by
  rw [firSum, ← List.map_uncurry_zip_eq_zipWith, List.foldl_map]
  rfl

theorem State.stageCount_eq_sampleCounted (s : State) : s.stageCount = sampleCounted s := rfl

theorem State.timingGain_eq_gainRamp (s : State) : s.timingGain = gainRamp s.dp.timRamp s.dp.gate.symSince := rfl

/-- TIM advances and is nudged by a phase word, and the symbol instant consumes its latch (R155, R293). -/
theorem State.stageTiming_eq (s : State) :
    let x := ((gainRamp s.dp.timRamp s.dp.gate.symSince).mul s.dp.ted.y).neg
    let o := (s.dp.tim.movedForward s.dp.tim.ftw).nudged (turnWord x)
    s.stageTiming = if Turns x then .ok (o.latch, { s with dp.tim := { o with latch := false } }) else .error .badArg := by
  intro x o
  rw [State.stageTiming, State.timingGain_eq_gainRamp, Osc.advanceFraction, Osc.advance_eq_movedForward]
  split_ifs with h
  · rw [phaseword_of_turns h, Except.map, Osc.nudge_eq_nudged]; rfl
  · rw [phaseword_of_not_turns h]; rfl

/-- Steps 4 to 9, in closed form: they fault where the nudge is no phase word. -/
theorem State.trackSample_eq (s : State) (xm : Cplx) :
    s.trackSample xm = (trackedByRules s xm).map fun r => ((r.1, r.2.1), (r.2.2.1, r.2.2.2)) := by
  unfold trackedByRules
  extract_lets d xc hr hi y u r ct et ef x tim
  have hy : MatchedFilter.out { d.mf with hr := hr, hi := hi } = y :=
    congrArg₂ Cplx.mk (firSum_eq_foldl_zipWith _ _) (firSum_eq_foldl_zipWith _ _)
  let s5 : State := { s with dp.car := d.car.movedForward d.car.ftw, dp.mf := { d.mf with hr := hr, hi := hi } }
  have hfilter : State.stageFilter { s with dp.car := d.car.movedForward d.car.ftw } xc = (y, s5) :=
    congrArg (·, s5) hy
  have htiming := State.stageTiming_eq
    (((s5.stageDelay y).2.stageResonator y).2.stageTed ((s5.stageDelay y).2.stageResonator y).1)
  unfold State.trackSample
  dsimp only
  rw [State.stageCarrier_eq, hfilter]
  refine (congrArg (Except.map _) htiming).trans ?_
  by_cases h : Turns x
  · rw [if_pos h]; exact congrArg (Except.map _) (if_pos h)
  · rw [if_neg h]; exact congrArg (Except.map _) (if_neg h)

/-- The sample step is the chain of the rules, stage by stage (R350). -/
theorem State.sampleCore_eq_sampleByRules (s : State) (i q : Int) : s.sampleCore i q = sampleByRules s i q := by
  unfold sampleByRules
  extract_lets z m xm
  unfold State.sampleCore
  dsimp only
  rw [State.stageAgc_eq, State.stageMix_eq]
  refine congrArg (Except.bind _) (funext fun s3 => ?_)
  refine (congrArg₂ Except.bind (s3.trackSample_eq xm) rfl).trans ?_
  cases trackedByRules s3 xm with
  | error c => rfl
  | ok r =>
    obtain ⟨y, yd, instant, s9⟩ := r
    cases instant <;> rfl

/-! ### The ordinary sample of burst mode (R240 to R242, R293, R350) -/

theorem Burst.isPeak_iff {b : Burst} {bt : F64} : b.isPeak bt = true ↔
    b.armed = true ∧ F64.lt params.btThr b.bt1 = true ∧ F64.le b.bt2 b.bt1 = true ∧ F64.lt bt b.bt1 = true := by
  simp only [Burst.isPeak, Bool.and_eq_true, and_assoc]

/-- Burst acquisition with no peak and no fill moves the two averages and the detector's memory alone (R241, R242). -/
theorem State.acquire_quiet {s : State} {xm : Cplx} (hmode : s.act.modeCont = false) (hfill : s.dp.acq.st ≠ .filling)
    (hpeak : s.dp.acq.isPeak (s.envelope xm).1 = false) :
    s.acquire xm = .ok { s with
      dp.btS := s.dp.btS.push xm.cabs, dp.btL := s.dp.btL.push xm.cabs
      dp.acq := { s.dp.acq with
        armed := if F64.lt (s.envelope xm).1 params.btRearm then true else s.dp.acq.armed
        bt2 := s.dp.acq.bt1, bt1 := (s.envelope xm).1 } } := by
  have hdetect : s.dp.acq.detect (s.envelope xm).1 = { s.dp.acq with
      armed := if F64.lt (s.envelope xm).1 params.btRearm then true else s.dp.acq.armed
      bt2 := s.dp.acq.bt1, bt1 := (s.envelope xm).1 } := by
    simp only [Burst.detect, hpeak, Bool.false_eq_true, if_false]
  rw [State.acquire, hmode, if_neg Bool.false_ne_true, State.burstStep,
    show (s.envelope xm).2.dp.acq = s.dp.acq from rfl, hdetect]
  exact if_neg hfill

theorem State.gateStep_noSig {s : State} (h : s.dp.gate.st = .noSig) : s.gateStep = .ok s := by
  rw [State.gateStep, h]

/-- Without a symbol instant and with no signal held, the counters follow the tracking stages (R350). -/
theorem sampleByRules_no_instant {s s3 s9 : State} {i q : Int} {xm y yd : Cplx}
    (hxm : Cplx.mulconj (agcLevelled (s.dp.agc.push (ingress i q)).m (ingress i q)) (phasor s.dp.mix.phase) = xm)
    (h3 : ({ s with dp.agc := s.dp.agc.push (ingress i q), dp.mix := s.dp.mix.movedForward s.dp.mix.ftw } : State).acquire xm = .ok s3)
    (h9 : trackedByRules s3 xm = .ok (y, yd, false, s9)) (hgate : s9.dp.gate.st = .noSig) :
    sampleByRules s i q = .ok (sampleCounted s9) := by
  subst hxm
  refine (congrArg₂ Except.bind h3 rfl).trans ((congrArg₂ Except.bind h9 rfl).trans ?_)
  exact congrArg₂ Except.bind (State.gateStep_noSig hgate) rfl

/-- Counting a sample writes the two counters and, where a report is due, EBNO (R331, R350). -/
theorem sampleCounted_dp (s : State) :
    (sampleCounted s).dp = s.countSample.dp ∨ (sampleCounted s).dp = { s.countSample.dp with ebno := ebnoOf s.dp.qgMse.y } := by
  rw [← State.stageCount_eq_sampleCounted, State.stageCount, State.qualityReport]
  split
  · exact .inr (State.push_dp _ _ _)
  · exact .inl rfl

/-- The commit check does not see which finite Eb/N0 a report writes (R330, R412). -/
theorem sampleWrites_ebno {modeCont : Bool} {old new : Datapath} {e : F64} (he : e.isFinite = true)
    (h : (sampleWrites modeCont old new).all F64.isFinite = true) :
    (sampleWrites modeCont old { new with ebno := e }).all F64.isFinite = true := by
  rw [sampleWrites_finite_iff] at h ⊢
  refine h.imp_left fun hscal => ?_
  simp only [Datapath.scalars, List.forall_mem_cons] at hscal ⊢
  tauto

end Sys2Proof.Machine

namespace Sys2Proof.Settled

set_option Elab.async false

open Sys2Proof.Machine

/-- Settles O44: the chain is that of the rules, and on a finite state the commit check passes exactly where the new datapath is
finite. On the ordinary sample each stage takes its quiet branch: `s3` is the state after acquisition, and `s9` the one that the
counters take. -/
theorem sampleOrdinary : Obligations.SampleOrdinary := by
  constructor
  · intro s i q hs hf hroom w
    refine congrArg Host.Outcome.next ?_
    have hcore := s.sampleCore_eq_sampleByRules i q
    cases h : sampleByRules s i q with
    | error c => exact runSample_of_error hf hroom (hcore.trans h)
    | ok t =>
      refine (runSample_of_ok hf hroom (hcore.trans h)).trans ?_
      rw [commit, State.sampleWrites_all_eq (State.allFinite_iff.mp hs) (hcore.trans h)]
      rfl
  · intro s i q _ _ hf hroom hmode hgate hfill d z m xm bs bl bt xc hr hi y u r ct et ef p gain tim t ebno
      hpeak hturns hlatch hwrites
    have hmodeCont : s.act.modeCont = false := hmode
    have hquiet : d.acq.isPeak bt = false := Bool.not_eq_true _ ▸ mt Burst.isPeak_iff.mp hpeak
    let s3 : State := { s with
      dp.agc.m := m, dp.mix := d.mix.movedForward d.mix.ftw, dp.btS.y := bs, dp.btL.y := bl, dp.acq := t.dp.acq }
    let s9 : State := { t with dp.sampleCnt := d.sampleCnt, dp.gate := d.gate }
    have h3 : State.acquire { s with dp.agc.m := m, dp.mix := d.mix.movedForward d.mix.ftw } xm = .ok s3 :=
      State.acquire_quiet hmodeCont hfill hquiet
    have h9 : trackedByRules s3 xm = .ok (y, d.dlSym.buf.getD d.dlSym.ptr ⟨⟨0⟩, ⟨0⟩⟩, tim.latch,
      { s9 with dp.tim := { tim with latch := false } }) := if_pos hturns
    rw [show ({ tim with latch := false } : Osc) = tim by rw [← hlatch], hlatch] at h9
    have hcore := (s.sampleCore_eq_sampleByRules i q).trans (sampleByRules_no_instant rfl h3 h9 hgate)
    refine congrArg Host.Outcome.next ((runSample_of_ok hf hroom hcore).trans (if_pos ?_))
    rw [hmodeCont]
    have hcounted : (sampleWrites false s.dp s9.countSample.dp).all F64.isFinite = true := List.all_eq_true.mpr hwrites
    rcases sampleCounted_dp s9 with h | h <;> rw [h]
    · exact hcounted
    · exact sampleWrites_ebno (F64.ebnoOf_finite _) hcounted

end Sys2Proof.Settled
end

section
/-! SUPPORT. The search for the first largest value, and the trident decision made with it (42_acquisition.md R247 to R250, R253):
statement O48. -/

namespace Sys2Proof.F64

-- One theorem at a time: elaborated side by side, they ask for more threads than the memory limit allows.
set_option Elab.async false

theorem le_of_lt' {x y : F64} (h : lt x y = true) : le x y = true := by
  obtain ⟨hx, hy, hkey⟩ := lt_iff.mp h
  exact le_iff.mpr ⟨hx, hy, hkey.le⟩

theorem lt_of_le_of_lt' {x y z : F64} (h : le x y = true) (h' : lt y z = true) : lt x z = true := by
  obtain ⟨hx, -, hkey⟩ := le_iff.mp h
  obtain ⟨-, hz, hkey'⟩ := lt_iff.mp h'
  exact lt_iff.mpr ⟨hx, hz, hkey.trans_lt hkey'⟩

theorem not_lt_of_le {x y : F64} (h : le x y = true) : ¬lt y x = true := fun h' =>
  (le_iff.mp h).2.2.not_gt (lt_iff.mp h').2.2

/-- Of two values that are not NaN, one that is not below the other is at least the other. -/
theorem le_of_not_lt {x y : F64} (hx : x.isNaN = false) (hy : y.isNaN = false) (h : ¬lt x y = true) : le y x = true :=
  le_iff.mpr ⟨hy, hx, not_lt.mp fun hkey => h (lt_iff.mpr ⟨hx, hy, hkey⟩)⟩

end Sys2Proof.F64

namespace Sys2Proof.Machine

set_option Elab.async false

/-! ### The first largest value of a list (R249, R265) -/

section FirstMax

variable {α : Type} (p : α → Prop) (f : α → F64)

/-- One candidate of a search: those without `p` are skipped, and the first of equals stays. -/
def firstMaxStep [DecidablePred p] (best : Option (α × F64)) (a : α) : Option (α × F64) :=
  if p a then
    match best with
    | none => some (a, f a)
    | some (_, m) => if F64.lt m (f a) then some (a, f a) else best
  else best

/-- Of the candidates of `l` that have `p`, `k` has the largest value, and is the first in the order of `pos` that has it. -/
structure IsFirstMax (pos : α → Int) (l : List α) (k : α) : Prop where
  mem : k ∈ l
  holds : p k
  max : ∀ x ∈ l, p x → F64.le (f x) (f k) = true
  first : ∀ x ∈ l, p x → pos x < pos k → F64.lt (f x) (f k) = true

variable {p f} {pos : α → Int} {l : List α} {a k : α}

/-- A last candidate that is skipped or not larger leaves the first largest value where it is. -/
theorem IsFirstMax.append (h : IsFirstMax p f pos l k) (hpos : pos k < pos a) (ha : p a → F64.le (f a) (f k) = true) :
    IsFirstMax p f pos (l ++ [a]) k where
  mem := List.mem_append_left _ h.mem
  holds := h.holds
  max := List.forall_mem_append.mpr ⟨h.max, List.forall_mem_singleton.mpr ha⟩
  first := List.forall_mem_append.mpr ⟨h.first, List.forall_mem_singleton.mpr fun _ hlt => absurd hlt hpos.asymm⟩

/-- A last candidate that is above all before it is the first largest value. -/
theorem isFirstMax_last (ha : p a) (hnan : (f a).isNaN = false) (h : ∀ x ∈ l, p x → F64.lt (f x) (f a) = true) :
    IsFirstMax p f pos (l ++ [a]) a where
  mem := List.mem_append_right _ (List.mem_singleton_self a)
  holds := ha
  max := List.forall_mem_append.mpr
    ⟨fun x hx hpx => F64.le_of_lt' (h x hx hpx), List.forall_mem_singleton.mpr fun _ => F64.le_refl' hnan⟩
  first := List.forall_mem_append.mpr
    ⟨fun x hx hpx _ => h x hx hpx, List.forall_mem_singleton.mpr fun _ hlt => absurd hlt (lt_irrefl _)⟩

/-- At most one candidate is the first largest value. -/
theorem IsFirstMax.unique {k' : α} (h : IsFirstMax p f pos l k) (h' : IsFirstMax p f pos l k')
    (hl : l.Pairwise fun x y => pos x < pos y) : k = k' := by
  obtain ⟨i, hi, rfl⟩ := List.getElem_of_mem h.mem
  obtain ⟨j, hj, rfl⟩ := List.getElem_of_mem h'.mem
  rcases lt_trichotomy i j with hlt | rfl | hlt
  · exact absurd (h'.first _ h.mem h.holds (List.pairwise_iff_getElem.mp hl i j hi hj hlt))
      (F64.not_lt_of_le (h.max _ h'.mem h'.holds))
  · rfl
  · exact absurd (h.first _ h'.mem h'.holds (List.pairwise_iff_getElem.mp hl j i hj hi hlt))
      (F64.not_lt_of_le (h'.max _ h.mem h.holds))

variable [DecidablePred p]

theorem firstMaxStep_of_not (ha : ¬p a) (best : Option (α × F64)) : firstMaxStep p f best a = best := if_neg ha

theorem firstMaxStep_none (ha : p a) : firstMaxStep p f none a = some (a, f a) := if_pos ha

theorem firstMaxStep_some (ha : p a) (m : F64) :
    firstMaxStep p f (some (k, m)) a = if F64.lt m (f a) then some (a, f a) else some (k, m) := if_pos ha

/-- The search through candidates in the order of `pos`: it finds the first largest value, or no candidate had `p`. -/
theorem foldl_firstMaxStep (hl : l.Pairwise fun x y => pos x < pos y) (hnan : ∀ x ∈ l, p x → (f x).isNaN = false) :
    (∃ k, IsFirstMax p f pos l k ∧ l.foldl (firstMaxStep p f) none = some (k, f k)) ∨
      ((∀ x ∈ l, ¬p x) ∧ l.foldl (firstMaxStep p f) none = none) := by
  induction l using List.reverseRecOn with
  | nil => exact .inr ⟨by simp, rfl⟩
  | append_singleton l a ih =>
    obtain ⟨hl, -, hlast⟩ := List.pairwise_append.mp hl
    obtain ⟨hnan, hnana⟩ := List.forall_mem_append.mp hnan
    rw [List.forall_mem_singleton] at hnana
    rw [List.foldl_append, List.foldl_cons, List.foldl_nil]
    rcases ih hl hnan with ⟨k, hk, he⟩ | ⟨hnone, he⟩ <;> rw [he]
    · have hpos : pos k < pos a := hlast k hk.mem a (List.mem_singleton_self a)
      left
      by_cases ha : p a
      · rw [firstMaxStep_some ha]
        split_ifs with hlt
        · exact ⟨a, isFirstMax_last ha (hnana ha) fun x hx hpx => F64.lt_of_le_of_lt' (hk.max x hx hpx) hlt, rfl⟩
        · exact ⟨k, hk.append hpos fun _ => F64.le_of_not_lt (hnan k hk.mem hk.holds) (hnana ha) hlt, rfl⟩
      · exact ⟨k, hk.append hpos fun h => absurd h ha, firstMaxStep_of_not ha _⟩
    · by_cases ha : p a
      · exact .inl ⟨a, isFirstMax_last ha (hnana ha) fun x hx hpx => absurd hpx (hnone x hx), firstMaxStep_none ha⟩
      · exact .inr ⟨List.forall_mem_append.mpr ⟨hnone, List.forall_mem_singleton.mpr ha⟩, firstMaxStep_of_not ha _⟩

theorem IsFirstMax.foldl_eq (h : IsFirstMax p f pos l k) (hl : l.Pairwise fun x y => pos x < pos y)
    (hnan : ∀ x ∈ l, p x → (f x).isNaN = false) : l.foldl (firstMaxStep p f) none = some (k, f k) := by
  rcases foldl_firstMaxStep hl hnan with ⟨k', hk', he⟩ | ⟨hnone, -⟩
  · rw [he, hk'.unique h hl]
  · exact absurd h.holds (hnone k h.mem)

theorem foldl_firstMaxStep_eq_none (h : ∀ k, ¬IsFirstMax p f pos l k) (hl : l.Pairwise fun x y => pos x < pos y)
    (hnan : ∀ x ∈ l, p x → (f x).isNaN = false) : l.foldl (firstMaxStep p f) none = none := by
  rcases foldl_firstMaxStep hl hnan with ⟨k, hk, -⟩ | ⟨-, he⟩
  · exact absurd hk (h k)
  · exact he

end FirstMax

/-! ### The ranges of the searches -/

theorem mem_intRange {lo hi i : Int} : i ∈ intRange lo hi ↔ lo ≤ i ∧ i ≤ hi := by
  simp only [intRange, List.mem_map, List.mem_range]
  constructor
  · rintro ⟨n, hn, rfl⟩
    omega
  · rintro ⟨hlo, hhi⟩
    exact ⟨(i - lo).toNat, by omega, by omega⟩

theorem intRange_pairwise_lt (lo hi : Int) : (intRange lo hi).Pairwise (· < ·) :=
  List.pairwise_map.mpr (List.pairwise_lt_range.imp fun h => by omega)

/-! ### The strongest bin (R249) -/

theorem some_strongest {n : Nat} (hn : 0 < n) (x : Nat → Cplx) :
    some (strongest n x) = (List.range n).foldl (firstMaxStep (fun _ => True) fun i => (x i).cabs) none := by
  obtain ⟨n, rfl⟩ := Nat.exists_eq_succ_of_ne_zero hn.ne'
  rw [strongest, List.range_succ_eq_map, List.tail_cons, List.foldl_cons, firstMaxStep_none trivial]
  refine (List.foldl_hom some (g₁ := fun best i => if F64.lt best.2 (x i).cabs then (i, (x i).cabs) else best)
    fun best i => ?_).symm
  rw [firstMaxStep_some trivial]
  exact (apply_ite some _ _ _).symm

theorem isStrongestBin_iff {n : Nat} {mag : Nat → F64} {k : Nat} :
    IsStrongestBin n mag k ↔ IsFirstMax (fun _ => True) mag Nat.cast (List.range n) k := by
  constructor
  · rintro ⟨hk, h⟩
    exact ⟨List.mem_range.mpr hk, trivial, fun i hi _ => (h i (List.mem_range.mp hi)).1,
      fun i hi _ hlt => (h i (List.mem_range.mp hi)).2 (Int.ofNat_lt.mp hlt)⟩
  · rintro ⟨hk, -, hmax, hfirst⟩
    exact ⟨List.mem_range.mp hk, fun i hi => ⟨hmax i (List.mem_range.mpr hi) trivial,
      fun hlt => hfirst i (List.mem_range.mpr hi) trivial (Int.ofNat_lt.mpr hlt)⟩⟩

theorem strongest_eq {n : Nat} {x : Nat → Cplx} {mv : Nat} (hfin : ∀ i < n, (x i).cabs.isFinite = true)
    (h : IsStrongestBin n (fun i => (x i).cabs) mv) : strongest n x = (mv, (x mv).cabs) := by
  refine Option.some_injective _ ((some_strongest (Nat.zero_lt_of_lt h.1) x).trans ?_)
  refine (isStrongestBin_iff.mp h).foldl_eq (List.pairwise_lt_range.imp fun hlt => Int.ofNat_lt.mpr hlt) fun i hi _ => ?_
  exact F64.isFinite_not_isNaN (hfin i (List.mem_range.mp hi))

/-! ### The side search (R249) -/

theorem sideStep_eq_firstMaxStep (n : Nat) (x : Nat → Cplx) :
    sideStep n x = firstMaxStep (fun i : Int => 0 ≤ i ∧ i < n) fun i => (x i.toNat).cabs := by
  funext best i
  cases best <;> rfl

/-- The bins of one side in the order of the search, nearest first. -/
def sideBins (mv : Nat) (dz sm dir : Int) : List Int := (intRange dz sm).map fun d => mv + dir * d

theorem sideSearch_eq_foldl (n : Nat) (x : Nat → Cplx) (mv : Nat) (dz sm dir : Int) :
    sideSearch n x mv dz sm dir =
      (sideBins mv dz sm dir).foldl (firstMaxStep (fun i : Int => 0 ≤ i ∧ i < n) fun i => (x i.toNat).cabs) none := by
  rw [sideBins, List.foldl_map, ← sideStep_eq_firstMaxStep]
  rfl

section Sides

variable {n mv : Nat} {dz sm dir : Int} (hdir : dir ∈ [(-1 : Int), 1])

include hdir

theorem sideBins_pairwise : (sideBins mv dz sm dir).Pairwise fun i j => dir * i < dir * j := by
  refine List.pairwise_map.mpr ((intRange_pairwise_lt dz sm).imp fun h => ?_)
  rcases List.mem_pair.mp hdir with rfl | rfl <;> omega

theorem isSideBin_iff {mag : Nat → F64} {i : Int} : IsSideBin n mag mv dz sm dir i ↔
    IsFirstMax (fun i : Int => 0 ≤ i ∧ i < n) (fun i => mag i.toNat) (dir * ·) (sideBins mv dz sm dir) i := by
  have hnear (d e : Int) : dir * (mv + dir * e) < dir * (mv + dir * d) ↔ e < d := by
    rcases List.mem_pair.mp hdir with rfl | rfl <;> omega
  constructor
  · rintro ⟨d, hdz, hsm, rfl, h0, hn, hbest⟩
    have hside {e : Int} (he : e ∈ intRange dz sm) := hbest e (mem_intRange.mp he).1 (mem_intRange.mp he).2
    refine ⟨List.mem_map_of_mem (mem_intRange.mpr ⟨hdz, hsm⟩), ⟨h0, hn⟩, ?_, ?_⟩
    · exact List.forall_mem_map.mpr fun e he hin => (hside he hin.1 hin.2).1
    · exact List.forall_mem_map.mpr fun e he hin hlt => (hside he hin.1 hin.2).2 ((hnear d e).mp hlt)
  · rintro ⟨hmem, ⟨h0, hn⟩, hmax, hfirst⟩
    obtain ⟨d, hd, rfl⟩ := List.mem_map.mp hmem
    obtain ⟨hdz, hsm⟩ := mem_intRange.mp hd
    refine ⟨d, hdz, hsm, rfl, h0, hn, fun e hlo hhi he0 hen => ?_⟩
    have he := List.mem_map_of_mem (f := fun d => (mv : Int) + dir * d) (mem_intRange.mpr ⟨hlo, hhi⟩)
    exact ⟨hmax _ he ⟨he0, hen⟩, fun hlt => hfirst _ he ⟨he0, hen⟩ ((hnear d e).mpr hlt)⟩

variable {x : Nat → Cplx} (hfin : ∀ i < n, (x i).cabs.isFinite = true)

include hfin

omit hdir in
theorem sideBins_not_isNaN : ∀ i ∈ sideBins mv dz sm dir, (0 ≤ i ∧ i < n) → (x i.toNat).cabs.isNaN = false :=
  fun i _ ⟨_, hn⟩ => F64.isFinite_not_isNaN (hfin i.toNat (by omega))

/-- The side search finds the strongest bin of its side, the nearest on ties. -/
theorem sideSearch_eq_some {i : Int} (h : IsSideBin n (fun i => (x i).cabs) mv dz sm dir i) :
    sideSearch n x mv dz sm dir = some (i, (x i.toNat).cabs) :=
  (sideSearch_eq_foldl n x mv dz sm dir).trans
    (((isSideBin_iff hdir).mp h).foldl_eq (sideBins_pairwise hdir) (sideBins_not_isNaN hfin))

theorem sideSearch_eq_none (h : ∀ i : Int, ¬IsSideBin n (fun i => (x i).cabs) mv dz sm dir i) :
    sideSearch n x mv dz sm dir = none :=
  (sideSearch_eq_foldl n x mv dz sm dir).trans (foldl_firstMaxStep_eq_none (fun i hi => h i ((isSideBin_iff hdir).mpr hi))
    (sideBins_pairwise hdir) (sideBins_not_isNaN hfin))

end Sides

/-! ### The spectra and the decision (R248 to R250) -/

/-- A segment read cell by cell, +0.0 past its end, is the segment zero-padded (R245, R248). -/
theorem padTo_take_eq_map (n : Nat) {k : Nat} {l : List Cplx} (hn : k ≤ n) (hl : k ≤ l.length) :
    padTo n (l.take k) = (List.range n).map fun j => if j < k then l.getD j Cplx.zero else Cplx.zero := by
  have hlen : (l.take k).length = k := List.length_take_of_le hl
  refine List.ext_getElem (by rw [padTo, List.length_append, List.length_replicate, hlen]; simp; omega) fun j h1 h2 => ?_
  rw [List.getElem_map, List.getElem_range]
  split_ifs with hj
  · rw [List.getD_eq_getElem _ _ (hj.trans_le hl)]
    exact (List.getElem_append_left (hj.trans_eq hlen.symm)).trans List.getElem_take
  · exact (List.getElem_append_right (hlen.trans_le (not_lt.mp hj))).trans (List.getElem_replicate _)

/-- verify() takes the centred spectra of the two segments of the buffer (R248). -/
theorem Burst.spectra_eq (b : Burst) (hlb : b.lb ≤ b.nacq) (hlt : b.lt ≤ b.nacq) (hbuf : b.buf.length = b.lb + b.lt) :
    b.baseSpectrum = shifted b.nacq (Config.dft b.nacq
      ((List.range b.nacq).map fun j => if j < b.lb then b.buf.getD j Cplx.zero else Cplx.zero)) ∧
    b.topSpectrum = shifted b.nacq (Config.dft b.nacq
      ((List.range b.nacq).map fun j => if j < b.lt then b.buf.getD (b.lb + j) Cplx.zero else Cplx.zero)) := by
  have hdrop (j : Nat) : (b.buf.drop b.lb).getD j Cplx.zero = b.buf.getD (b.lb + j) Cplx.zero := by
    simp only [List.getD_eq_getElem?_getD, List.getElem?_drop]
  rw [Burst.baseSpectrum, Burst.topSpectrum, padTo_take_eq_map _ hlb (by omega), padTo_take_eq_map _ hlt (by simp; omega)]
  simp only [hdrop, and_self]

/-- The four conditions of an acceptance (R250). -/
theorem State.accepts_iff {s : State} {mm ratio : F64} : s.accepts mm ratio = true ↔
    F64.lt ⟨0x4069000000000000⟩ mm = true ∧ F64.le (ratio.sub F64.one).abs ⟨0x3FA999999999999A⟩ = true ∧ s.dp.gate.st = .noSig ∧
      s.dp.acq.dead ≤ s.dp.gate.sinceLock.toNat := by
  simp only [State.accepts, Bool.and_eq_true, beq_iff_eq, decide_eq_true_eq, and_assoc, params]

section Decision

variable {s : State} {bs ts : Nat → Cplx} {hzb : F64}

theorem State.verifyWith_zeroDiv (h : F64.eq hzb F64.zero = true) : s.verifyWith bs ts hzb = .error .zeroDiv := if_pos h

variable {mv : Nat × F64} {sp : F64} (hz : F64.eq hzb F64.zero = false) (hmv : strongest s.dp.acq.nacq bs = mv)
  (hsp : toneSpacing s.act.fb hzb = sp)

include hz hmv hsp

/-- With a bin on both sides, the four conditions decide (R249, R250). -/
theorem State.verifyWith_of_sides {lo hi : Int × F64} (hsp0 : F64.eq sp F64.zero = false)
    (hlo : sideSearch s.dp.acq.nacq ts mv.1 (deadZone sp) (searchEnd sp) (-1) = some lo)
    (hhi : sideSearch s.dp.acq.nacq ts mv.1 (deadZone sp) (searchEnd sp) 1 = some hi) :
    s.verifyWith bs ts hzb =
      if s.accepts mv.2 ((F64.ofInt (hi.1 - mv.1)).div sp) then s.acceptActions lo.1 hi.1 hzb (bs mv.1)
      else .ok { s with dp.acq.st := .rejected } := by
  rw [State.verifyWith]
  simp only [hmv, hz, hsp, hlo, hhi, hsp0, Bool.false_eq_true, if_false]

/-- Without a bin on one of the sides, verification rejects (R249). -/
theorem State.verifyWith_of_no_side {dir : Int} (hdir : dir ∈ [(-1 : Int), 1])
    (h : sideSearch s.dp.acq.nacq ts mv.1 (deadZone sp) (searchEnd sp) dir = none) :
    s.verifyWith bs ts hzb = .ok { s with dp.acq.st := .rejected } := by
  rw [State.verifyWith]
  simp only [hmv, hz, hsp, Bool.false_eq_true, if_false]
  rcases List.mem_pair.mp hdir with rfl | rfl
  · rw [h]
  · rw [h]
    cases sideSearch s.dp.acq.nacq ts mv.1 (deadZone sp) (searchEnd sp) (-1) <;> rfl

end Decision

end Sys2Proof.Machine

namespace Sys2Proof.Settled

set_option Elab.async false

open Sys2Proof.Machine

/-- Settles O48: the searches find the bins that the statement names, and the model's decision on them is the statement's. -/
theorem tridentDecision : Obligations.TridentDecision := by
  intro s bs ts hzb n sp dz sm rejected b centred base top
  refine ⟨fun hlb hlt hbuf => ?_, State.verifyWith_zeroDiv, fun hz hsp hfin mv hmv => ?_⟩
  · obtain ⟨hbase, htop⟩ := b.spectra_eq hlb hlt hbuf
    exact congrArg₂ (s.verifyWith · · _) hbase htop
  have hstrong := strongest_eq (fun i hi => (hfin i hi).1) hmv
  refine ⟨fun lo hi hlo hhi => ?_, fun dir hdir hnone => ?_⟩
  · have hloSome := sideSearch_eq_some (by decide) (fun i hi => (hfin i hi).2) hlo
    have hhiSome := sideSearch_eq_some (by decide) (fun i hi => (hfin i hi).2) hhi
    rw [State.verifyWith_of_sides hz hstrong rfl hsp hloSome hhiSome]
    exact if_congr State.accepts_iff rfl rfl
  · exact State.verifyWith_of_no_side hz hstrong rfl hdir (sideSearch_eq_none hdir (fun i hi => (hfin i hi).2) hnone)

end Sys2Proof.Settled
end

section
/-! SUPPORT. The two acquisition strategies on one mixed sample, in the closed form of the rules (42_acquisition.md R240 to R246, R260 to
R268): statements O47 and O49. -/

namespace Sys2Proof.Machine

-- One theorem at a time: elaborated side by side, they ask for more threads than the memory limit allows.
set_option Elab.async false

/-! ### The burst step (R240 to R243, R246) -/

theorem State.acquire_of_burst {s : State} (h : s.act.ctrl.getLsbD 0 = false) (xm : Cplx) : s.acquire xm = s.burstStep xm :=
  if_neg (by rw [Active.modeCont, h]; exact Bool.false_ne_true)

theorem State.acquire_of_continuous {s : State} (h : s.act.ctrl.getLsbD 0 = true) (xm : Cplx) : s.acquire xm = .ok (s.contStep xm) :=
  if_pos h

/-- A fill stores the sample at its pointer, and starts verification when the buffer is full (R246). -/
theorem State.fillStep_of_filling {s : State} (h : s.dp.acq.st = .filling) (xm : Cplx) :
    s.fillStep xm =
      let s1 : State := { s with dp.acq.buf := s.dp.acq.buf.set s.dp.acq.ptr xm, dp.acq.ptr := s.dp.acq.ptr + 1 }
      if s.dp.acq.ptr + 1 = s.dp.acq.lb + s.dp.acq.lt then { s1 with dp.acq.st := .verifying }.verify else .ok s1 := if_pos h

theorem Burst.detect_of_peak {b : Burst} {bt : F64} (h : b.isPeak bt = true) :
    b.detect bt = { b with armed := false, bt2 := b.bt1, bt1 := bt, ptr := 0, st := .filling } := by
  rw [Burst.detect, h]; rfl

theorem Burst.detect_of_no_peak {b : Burst} {bt : F64} (h : b.isPeak bt = false) :
    b.detect bt = { b with armed := if F64.lt bt params.btRearm then true else b.armed, bt2 := b.bt1, bt1 := bt } := by
  rw [Burst.detect, h]; rfl

/-! ### The continuous estimator (R260 to R268) -/

theorem State.push_freqEst (s : State) (f : F64) :
    s.push (.freqEst f) = pushed s 4 [f.bits.extractLsb' 0 32, f.bits.extractLsb' 32 32] := rfl

theorem State.contStep_of_not_full {s : State} (h : s.dp.cont.ptr + 1 ≠ s.dp.cont.nc) (xm : Cplx) :
    s.contStep xm = { s with dp.cont.frame := s.dp.cont.frame.set s.dp.cont.ptr xm, dp.cont.ptr := s.dp.cont.ptr + 1 } :=
  if_neg h

/-- The sample that fills a frame ends it: the new magnitudes, the settle period and the estimate, and its event (R260 to R268). -/
theorem State.contStep_of_full {s : State} (h : s.dp.cont.ptr + 1 = s.dp.cont.nc) (xm : Cplx) :
    let c := s.dp.cont
    let hzb := binSpacing s.act.fs c.nc
    let frame := c.frame.set c.ptr xm
    let mags := smoothMags c.mags (squaredSpectrum s.act.contWindow s.act.lbw hzb c.nc frame)
    let est := if c.settle = 0 then coarseEstimate s.act.fb s.act.lbw hzb c.nc mags else F64.zero
    s.contStep xm = { s with
      dp.cont := { frame := frame, ptr := 0, mags := mags, settle := if c.settle = 0 then 0 else c.settle - 1, nc := c.nc }
      dp.freqEst := est }.push (.freqEst est) :=
  (if_pos h).trans (State.push_mapDp _ _ fun d => { d with cont.ptr := 0 })

/-- Outside the locking bandwidth a bin is windowed or zeroed (R262). -/
theorem bandLimit_eq (window : Bool) (lbw fk : F64) (x : Cplx) :
    bandLimit window lbw fk x =
      if F64.lt (lbw.div F64.two) fk.abs = true then
        if window = true ∧ F64.lt F64.zero lbw = true then
          ⟨x.re.mul (taper fk.abs (lbw.div F64.two)), x.im.mul (taper fk.abs (lbw.div F64.two))⟩
        else Cplx.zero
      else x :=
  if_congr Iff.rfl (if_congr (by rw [Bool.and_eq_true]) rfl rfl) rfl

/-! ### The fold search (R265) -/

/-- The fold search is a search for the first largest pair energy. -/
theorem foldStep_eq_firstMaxStep (nc : Nat) (mc : List F64) (t : Int) [DecidablePred (FoldInRange nc t)] :
    foldStep nc mc t = firstMaxStep (FoldInRange nc t) (foldEnergy nc mc t) := by
  funext best k
  cases best <;> exact if_congr Iff.rfl rfl rfl

theorem isFoldCentre_iff {nc : Nat} {mc : List F64} {t kMax k : Int} :
    IsFoldCentre nc mc t kMax k ↔ IsFirstMax (FoldInRange nc t) (foldEnergy nc mc t) id (intRange (-kMax) kMax) k := by
  constructor
  · rintro ⟨⟨hlo, hhi, hin⟩, hbest⟩
    have hcentre {j : Int} (hj : j ∈ intRange (-kMax) kMax) := hbest j (mem_intRange.mp hj).1 (mem_intRange.mp hj).2
    exact ⟨mem_intRange.mpr ⟨hlo, hhi⟩, hin, fun j hj hjin => (hcentre hj hjin).1, fun j hj hjin => (hcentre hj hjin).2⟩
  · rintro ⟨hmem, hin, hmax, hfirst⟩
    obtain ⟨hlo, hhi⟩ := mem_intRange.mp hmem
    refine ⟨⟨hlo, hhi, hin⟩, fun j hjlo hjhi hjin => ?_⟩
    have hj := mem_intRange.mpr ⟨hjlo, hjhi⟩
    exact ⟨hmax j hj hjin, hfirst j hj hjin⟩

section Fold

variable {nc : Nat} {mc : List F64} (hfin : ∀ x ∈ mc, x.isFinite = true)

include hfin

/-- The energy of a pair of finite magnitudes is no NaN, though it may overflow. -/
theorem foldEnergy_not_isNaN (t k : Int) : (foldEnergy nc mc t k).isNaN = false := by
  have hcell := getD_of_forall_mem (P := fun x : F64 => x.isFinite = true) hfin (d := F64.zero) (by decide)
  exact F64.add_not_isNaN (hcell _) (F64.isFinite_not_isNaN (hcell _))

/-- The fold search finds the centre with the most energy, the lowest on ties. -/
theorem foldSearch_eq_some {t kMax k : Int} (h : IsFoldCentre nc mc t kMax k) :
    foldSearch nc mc t kMax = some (k, foldEnergy nc mc t k) := by
  classical
  rw [foldSearch, foldStep_eq_firstMaxStep]
  exact (isFoldCentre_iff.mp h).foldl_eq (intRange_pairwise_lt _ _) fun _ _ _ => foldEnergy_not_isNaN hfin t _

theorem foldSearch_eq_none {t kMax : Int} (h : ∀ k : Int, -kMax ≤ k → k ≤ kMax → ¬FoldInRange nc t k) :
    foldSearch nc mc t kMax = none := by
  classical
  rw [foldSearch, foldStep_eq_firstMaxStep]
  refine foldl_firstMaxStep_eq_none (pos := id) (fun k hk => ?_) (intRange_pairwise_lt _ _)
    fun _ _ _ => foldEnergy_not_isNaN hfin t _
  obtain ⟨hlo, hhi⟩ := mem_intRange.mp hk.mem
  exact h k hlo hhi hk.holds

end Fold

end Sys2Proof.Machine

namespace Sys2Proof.Settled

set_option Elab.async false

open Sys2Proof.Machine

/-- Settles O47: after the detector a fill is under way exactly where a peak has just restarted it or it was under way before, and
the fill step then does the rest. -/
theorem burstAcquisition : Obligations.BurstAcquisition := by
  intro s xm hmode d b bs bl bt peak ptr moved put stored
  have hstep : s.acquire xm = (put (b.detect bt)).fillStep xm := State.acquire_of_burst hmode xm
  have hfilling (h : peak = true ∨ b.st = .filling) : b.detect bt = { moved with ptr := ptr, st := .filling } := by
    cases hp : peak
    · have hst : b.st = .filling := h.resolve_left (hp ▸ Bool.false_ne_true)
      rw [Burst.detect_of_no_peak hp]
      simp only [moved, ptr, hp, ← hst]
      rfl
    · rw [Burst.detect_of_peak hp]
      simp only [moved, ptr, hp, if_true]
  refine ⟨fun hp hst => ?_, fun h hfull => ?_, fun h hfull => ?_⟩
  · rw [State.acquire_quiet hmode hst hp]
    simp only [put, moved, hp]
    rfl
  · rw [hstep, hfilling h]
    exact (State.fillStep_of_filling (s := put { moved with ptr := ptr, st := .filling }) rfl xm).trans (if_neg hfull)
  · rw [hstep, hfilling h]
    exact (State.fillStep_of_filling (s := put { moved with ptr := ptr, st := .filling }) rfl xm).trans (if_pos hfull)

/-- Settles O49: a full frame is the model's frame step with its band limit written as the statement writes it, and the fold search
finds the centre that the statement names. -/
theorem continuousEstimator : Obligations.ContinuousEstimator := by
  constructor
  · intro s xm hmode d c frame hzb half limited squared q mags est
    have hlimited (k : Nat) : bandLimit s.act.contWindow s.act.lbw (binFreq c.nc hzb k) (Config.dft c.nc frame k) = limited k :=
      bandLimit_eq _ _ _ _
    have hspectrum : squaredSpectrum s.act.contWindow s.act.lbw hzb c.nc frame = q := by
      simp only [squaredSpectrum, hlimited]
      rfl
    rw [State.acquire_of_continuous hmode]
    refine ⟨fun hmore => congrArg _ (State.contStep_of_not_full hmore xm), fun hfull => ?_⟩
    refine congrArg _ ((State.contStep_of_full hfull xm).trans ?_)
    rw [show binSpacing s.act.fs s.dp.cont.nc = hzb from rfl, hspectrum]
    rfl
  · intro fb lbw hzb nc mc hfin t kMax
    refine ⟨fun k hk => ?_, fun hnone => ?_⟩
    · rw [coarseEstimate, foldSearch_eq_some hfin hk]
    · rw [coarseEstimate, foldSearch_eq_none hfin hnone]

end Sys2Proof.Settled
end

section
/-! SUPPORT. A trident acceptance, with its events and the sentinel (42_acquisition.md R252; 44_quality_softbits.md R325, R338, R339):
statement O50. -/

namespace Sys2Proof.Machine

-- One theorem at a time: elaborated side by side, they ask for more threads than the memory limit allows.
set_option Elab.async false

open F64

/-! ### The phase word of an angle (R17, R23) -/

/-- An angle of atan2 has a phase word (R17, R23). -/
theorem turns_atan2 (y x : F64) : Turns ((Config.atan2 y x).div twoPi) := by
  obtain ⟨hlo, hhi⟩ := Config.atan2_range y x
  have hpi : pi.toReal ≤ 4 := toReal_four ▸ toReal_le_of_le (by decide)
  have htwoPi : 1 ≤ twoPi.toReal := toReal_one ▸ toReal_le_of_le (by decide)
  have hangle : |(Config.atan2 y x).toReal| ≤ 2 ^ 2 := by
    have h1 := toReal_le_of_le hlo
    have h2 := toReal_le_of_le hhi
    rw [toReal_neg] at h1
    exact abs_le.mpr ⟨by linarith, by linarith⟩
  have hfin := isFinite_of_between (by decide) (by decide) hlo hhi
  have hz : twoPi.isZero = false := by decide
  obtain ⟨hq, hq4⟩ := (rounds_div hfin (by decide) hz).abs_le_two_pow (k := 2) (by norm_num) (by
    rw [abs_div, abs_of_pos (by linarith : 0 < twoPi.toReal)]
    exact (div_le_self (abs_nonneg _) htwoPi).trans hangle)
  refine ⟨hq, ((rounds_mul (y := two32) hq (by decide)).abs_le_two_pow (k := 34) (by norm_num) ?_).1⟩
  rw [abs_mul, toReal_two32, abs_of_pos (by positivity : (0 : ℝ) < 2 ^ 32)]
  linarith

/-! ### Retuning and locking (R252, R325) -/

theorem State.retune_of_turns {s : State} {hz : F64} (hhz : hz.isFinite = true) (hfs : s.act.fs.isFinite = true)
    (hpos : F64.lt F64.zero s.act.fs = true) (ht : Turns (hz.div s.act.fs)) :
    s.retune hz = .ok { s with dp.mix.ftw := turnWord (hz.div s.act.fs), dp.gate.carrier := hz } := by
  rw [State.retune, Osc.setFrequency, le_zero_eq_not_lt hfs, hhz, hfs, hpos, phaseword_of_turns ht]
  rfl

theorem State.push_carrierFreq (s : State) (f : F64) :
    s.push (.carrierFreq f) = pushed s 5 [f.bits.extractLsb' 0 32, f.bits.extractLsb' 32 32] := rfl

theorem State.push_sigPresent (s : State) (idx : Word) (b : Bool) : s.push (.sigPresent idx b) = pushed s 1 [idx, flagWord b] := rfl

theorem State.sbPush_eq_softPushed (s : State) (x : BitVec 16) : s.sbPush x = softPushed s x := rfl

/-- What a burst lock does before its event commutes with a push (R325). -/
theorem State.startGate_resetLoops_push (s : State) (e : Event) :
    (s.push e).resetLoops.startGate = s.resetLoops.startGate.push e :=
  State.push_mapDp s e fun d => State.dp ({ s with dp := d } : State).resetLoops.startGate

/-- A burst lock behind another event: the loops and the gate, then that event, SIG_PRESENT, and the sentinel (R325, R339). -/
theorem State.lockOn_push (s : State) (e : Event) : (s.push e).lockOn true =
    ((s.resetLoops.startGate.push e).push (.sigPresent s.sampleIndex true)).sbPush params.sbSentinel := by
  have hidx : (s.resetLoops.startGate.push e).sampleIndex = s.sampleIndex := by rw [State.sampleIndex, State.push_dp]; rfl
  rw [State.lockOn]
  simp only [if_true, State.startGate_resetLoops_push, hidx]

/-- Setting ACQST commutes with a soft element joining the buffer. -/
theorem State.sbPush_acqSt (s : State) (x : BitVec 16) (st : AcqState) :
    { s.sbPush x with dp.acq.st := st } = State.sbPush { s with dp.acq.st := st } x := by
  unfold State.sbPush
  dsimp only
  split
  · exact State.push_mapDp { s with dp.gate.sb := [] } _ fun d => { d with acq.st := st }
  · rfl

/-- Setting ACQST commutes with a push. -/
theorem State.push_acqSt (s : State) (e : Event) (st : AcqState) :
    { s.push e with dp.acq.st := st } = State.push { s with dp.acq.st := st } e :=
  State.push_mapDp s e fun d => { d with acq.st := st }

end Sys2Proof.Machine

namespace Sys2Proof.Settled

set_option Elab.async false

open Sys2Proof.Machine

/-- Settles O50: neither phase word faults, and what the acceptance writes to the datapath commutes with its two events. -/
theorem tridentAccept : Obligations.TridentAccept := by
  intro s lo hi hzb b newf angle hnewf hfs hpos ht d held
  let s2 : State := { s with
    dp.mix.ftw := turnWord (newf.div s.act.fs), dp.gate.carrier := newf
    dp.car := { d.car with phase := turnWord angle, armed := true } }
  have hacc : s.acceptActions lo hi hzb b =
      .ok { (s2.push (.carrierFreq newf)).lockOn true with dp.acq.st := .locked } := by
    refine (congrArg₂ Except.bind (State.retune_of_turns hnewf hfs hpos ht) rfl).trans ?_
    exact congrArg₂ Except.bind (phaseword_of_turns (turns_atan2 b.im b.re)) rfl
  have hheld : { s2.resetLoops.startGate with dp.acq.st := .locked } = held := rfl
  rw [hacc, State.lockOn_push, State.sbPush_acqSt, State.push_acqSt, State.push_acqSt, hheld, State.push_carrierFreq,
    State.push_sigPresent, State.sbPush_eq_softPushed]
  rfl

end Sys2Proof.Settled
end

section
/-! SUPPORT. A symbol instant: the carrier loop, the decoder, the counters and the continuous-mode lock (43_tracking.md R300 to R303;
44_quality_softbits.md R321 to R340; 45_sample_pipeline.md R350): statement O46. -/

namespace Sys2Proof.F64

-- One theorem at a time: elaborated side by side, they ask for more threads than the memory limit allows.
set_option Elab.async false

@[simp] theorem neg_isNaN (x : F64) : x.neg.isNaN = x.isNaN := by simp [isNaN]

/-- A difference of finite values is no NaN, though it may overflow. -/
theorem sub_not_isNaN {x y : F64} (hx : x.isFinite = true) (hy : y.isFinite = true) : (x.sub y).isNaN = false :=
  add_not_isNaN hx ((neg_isNaN y).trans (isFinite_not_isNaN hy))

/-- A clamp of a value that is not NaN lies between its bounds, infinities included (R26). -/
theorem clamp_between_of_not_isNaN {v lo hi : F64} (hlohi : le lo hi = true) (hv : v.isNaN = false) :
    le lo (clamp v lo hi) = true ∧ le (clamp v lo hi) hi = true := by
  obtain ⟨hlo, hhi, -⟩ := le_iff.mp hlohi
  have hmax : (fmax v lo).isNaN = false := (le_iff.mp (fmax_spec hv hlo).2.1).2.1
  exact clamp_between hlohi (le_iff.mp (fmin_spec hmax hhi).2.1).1

/-- A product with a factor of magnitude at most one is finite and no larger than the other factor. -/
theorem mul_abs_le {g x : F64} (hg : g.isFinite = true) (hg1 : |g.toReal| ≤ 1) (hx : x.isFinite = true) :
    (g.mul x).isFinite = true ∧ |(g.mul x).toReal| ≤ |x.toReal| := by
  have habs : |g.toReal * x.toReal| ≤ |x.toReal| := by
    rw [abs_mul]
    exact mul_le_of_le_one_left (abs_nonneg _) hg1
  obtain ⟨b, hb, hbv⟩ : ∃ b : F64, b.isFinite = true ∧ b.toReal = |x.toReal| := by
    rcases abs_choice x.toReal with h | h
    · exact ⟨x, hx, h.symm⟩
    · exact ⟨x.neg, (neg_isFinite x).trans hx, (toReal_neg x).trans h.symm⟩
  obtain ⟨hlow, hhigh⟩ := abs_le.mp habs
  obtain ⟨hfin, h1, h2⟩ := (rounds_mul hg hx).between (a := b.neg) (b := b) ((neg_isFinite b).trans hb) hb
    (by rw [toReal_neg, hbv]; exact hlow) (by rw [hbv]; exact hhigh)
  rw [toReal_neg, hbv] at h1
  exact ⟨hfin, abs_le.mpr ⟨h1, hbv ▸ h2⟩⟩

/-- A value that is not NaN and that a soft byte does not clip rounds to a byte (R336). -/
theorem rne_between_of_unclipped {t : F64} (hnum : t.isNaN = false) (hhi : ¬le ⟨0x406FE00000000000⟩ t = true)
    (hlo : ¬le t zero = true) : 0 ≤ t.rne ∧ t.rne ≤ 255 := by
  have hle := le_of_not_le (by decide) hnum hhi
  have hge := le_of_not_le hnum (by decide) hlo
  have hfin := isFinite_of_between (by decide) (by decide) hge hle
  have hle' := toReal_le_of_le hle
  have hge' := toReal_le_of_le hge
  rw [Machine.toReal_255] at hle'
  rw [toReal_zero] at hge'
  exact int_between_of_abs_sub_le (abs_rne_sub_le hfin) (by simpa using hge') (by simpa using hle')

end Sys2Proof.F64

namespace Sys2Proof.Config

set_option Elab.async false

open F64

/-- tanh is finite and at most one in magnitude, on every argument (P1). -/
theorem tanh_abs_le_one (x : F64) : (tanh x).isFinite = true ∧ |(tanh x).toReal| ≤ 1 := by
  have ht : le negOne (within negOne one zero (tanhFree x.abs)) = true ∧
      le (within negOne one zero (tanhFree x.abs)) one = true := within_spec (by decide)
  have hfin := isFinite_of_between (by decide) (by decide) ht.1 ht.2
  have habs := abs_toReal_le_one ht
  unfold tanh
  dsimp only
  split
  · rw [neg_isFinite, toReal_neg, abs_neg]
    exact ⟨hfin, habs⟩
  · exact ⟨hfin, habs⟩

end Sys2Proof.Config

namespace Sys2Proof.Machine

set_option Elab.async false

open F64

/-! ### The carrier error and its phase words (R300 to R303) -/

/-- The correction of a loop of gain g for the error e, in turns (R301, R302). -/
def loopTurns (g e : F64) : F64 := (g.mul e).div twoPi

/-- An angle of at most 4 radians, in turns, is a phase word (R23). -/
theorem turns_div_twoPi {x : F64} (hx : x.isFinite = true) (hx4 : |x.toReal| ≤ 2 ^ 2) : Turns (x.div twoPi) := by
  have htwoPi : 1 ≤ twoPi.toReal := toReal_one ▸ toReal_le_of_le (by decide)
  have hz : twoPi.isZero = false := by decide
  obtain ⟨hq, hq4⟩ := (rounds_div hx (by decide) hz).abs_le_two_pow (k := 2) (by norm_num) (by
    rw [abs_div, abs_of_pos (by linarith : 0 < twoPi.toReal)]
    exact (div_le_self (abs_nonneg _) htwoPi).trans hx4)
  refine ⟨hq, ((rounds_mul (y := two32) hq (by decide)).abs_le_two_pow (k := 34) (by norm_num) ?_).1⟩
  rw [abs_mul, toReal_two32, abs_of_pos (by positivity : (0 : ℝ) < 2 ^ 32)]
  linarith

/-- An error of at most 4 radians has a phase word at every gain up to one (R23, R303). -/
theorem turns_loopTurns {g e : F64} (hg : g.isFinite = true) (hg1 : |g.toReal| ≤ 1) (he : e.isFinite = true)
    (he4 : |e.toReal| ≤ 2 ^ 2) : Turns (loopTurns g e) := by
  obtain ⟨hm, hme⟩ := mul_abs_le hg hg1 he
  exact turns_div_twoPi hm (hme.trans he4)

/-- The carrier error of finite samples is an angle between -π/2 and π/2 (R300). -/
theorem carrierError_bounded {zc zd : Cplx} (hc : zc.re.isFinite = true) (hd : zd.re.isFinite = true) :
    (carrierError zc zd).isFinite = true ∧ |(carrierError zc zd).toReal| ≤ 2 ^ 2 := by
  rw [carrierError]
  have htv {w : Cplx} (hw : w.re.isFinite = true) : (tv w).isFinite = true :=
    (mul_abs_le (Config.tanh_abs_le_one w.im).1 (Config.tanh_abs_le_one w.im).2 hw).1
  obtain ⟨hlo, hhi⟩ := clamp_between_of_not_isNaN (lo := halfPi.neg) (hi := halfPi) (by decide) (sub_not_isNaN (htv hc) (htv hd))
  have hhalfPi : halfPi.toReal ≤ 4 := toReal_four ▸ toReal_le_of_le (by decide)
  have h1 := toReal_le_of_le hlo
  have h2 := toReal_le_of_le hhi
  rw [toReal_neg] at h1
  exact ⟨isFinite_of_between (by decide) (by decide) hlo hhi, abs_le.mpr ⟨by linarith, by linarith⟩⟩

/-- Both gains of the carrier loop are at most one (R11). -/
theorem carrierGains_le_one : |params.carKp.toReal| ≤ 1 ∧ |params.carKf.toReal| ≤ 1 :=
  ⟨abs_toReal_le_one (by decide), abs_toReal_le_one (by decide)⟩

/-- Finite samples exclude a faulting carrier update (R303). -/
theorem turns_carrierError {zc zd : Cplx} (hc : zc.re.isFinite = true) (hd : zd.re.isFinite = true) :
    Turns (loopTurns params.carKp (carrierError zc zd)) ∧ Turns (loopTurns params.carKf (carrierError zc zd)) := by
  obtain ⟨he, he4⟩ := carrierError_bounded hc hd
  exact ⟨turns_loopTurns (by decide) carrierGains_le_one.1 he he4, turns_loopTurns (by decide) carrierGains_le_one.2 he he4⟩

theorem Osc.advanceFraction_eq (o : Osc) (x : F64) :
    o.advanceFraction x = if Turns x then .ok (o.nudged (turnWord x)) else .error .badArg := by
  rw [Osc.advanceFraction]
  split_ifs with h
  · rw [phaseword_of_turns h, Except.map, Osc.nudge_eq_nudged]
  · rw [phaseword_of_not_turns h, Except.map]

/-- The frequency term moves a settled loop, and faults only there (R302). -/
theorem Osc.frequencyTerm_eq (o : Osc) (settled : Prop) [Decidable settled] (e : F64) :
    o.frequencyTerm (decide settled) e = if settled → Turns (loopTurns params.carKf e) then
        .ok (if settled then { o with ftw := o.ftw + turnWord (loopTurns params.carKf e) } else o)
      else .error .badArg := by
  by_cases hs : settled
  · by_cases ht : Turns (loopTurns params.carKf e)
    · rw [if_pos fun _ => ht, if_pos hs, Osc.frequencyTerm, if_pos (decide_eq_true hs)]
      exact congrArg (Except.map _) (phaseword_of_turns ht)
    · rw [if_neg fun h => ht (h hs), Osc.frequencyTerm, if_pos (decide_eq_true hs)]
      exact congrArg (Except.map _) (phaseword_of_not_turns ht)
  · rw [if_pos fun h => absurd h hs, if_neg hs, Osc.frequencyTerm, if_neg (by simpa using hs)]

/-- CAR after the update of a symbol instant: the nudge, and the frequency term once it has settled (R301, R302). -/
def carrierMoved (d : Datapath) (e : F64) : Osc :=
  let o := d.car.nudged (turnWord (loopTurns params.carKp e))
  if d.carFstart ≤ d.gate.symSince.toNat then { o with ftw := o.ftw + turnWord (loopTurns params.carKf e) } else o

/-- The carrier update writes CAR alone, and faults where one of its corrections is no phase word (R301 to R303). -/
theorem State.carrierUpdate_eq (s : State) (zc zd : Cplx) :
    let e := carrierError zc zd
    s.carrierUpdate zc zd = if Turns (loopTurns params.carKp e) ∧
          (s.dp.carFstart ≤ s.dp.gate.symSince.toNat → Turns (loopTurns params.carKf e)) then
        .ok { s with dp.car := carrierMoved s.dp e }
      else .error .badArg := by
  intro e
  have hbind : s.carrierUpdate zc zd = (s.dp.car.advanceFraction (loopTurns params.carKp e)).bind fun o =>
      (o.frequencyTerm (decide (s.dp.carFstart ≤ s.dp.gate.symSince.toNat)) e).bind fun o' => .ok { s with dp.car := o' } := rfl
  rw [hbind, Osc.advanceFraction_eq]
  by_cases hn : Turns (loopTurns params.carKp e)
  · rw [if_pos hn, Except.bind, Osc.frequencyTerm_eq]
    by_cases ht : s.dp.carFstart ≤ s.dp.gate.symSince.toNat → Turns (loopTurns params.carKf e)
    · rw [if_pos ht, if_pos (And.intro hn ht)]; rfl
    · rw [if_neg ht, if_neg fun h => ht h.2]; rfl
  · rw [if_neg hn, if_neg fun h => hn h.1]; rfl

/-! ### The soft bytes and the decoder (R335, R336, R338, R340) -/

/-- Both forms of the soft byte agree on every value; the rounded one is a byte (R336). -/
theorem quant_eq_softByte (free : BitVec 8) (v : F64) : quant free v = softByte free v := by
  have hquant : quant free v = if F64.le ⟨0x406FE00000000000⟩ (softScaled v) then 255
      else if F64.le (softScaled v) zero then 0
      else if (softScaled v).isNaN then free.zeroExtend 16 else (BitVec.ofInt 8 (softScaled v).rne).zeroExtend 16 := rfl
  have hsoft : softByte free v = if F64.le ⟨0x406FE00000000000⟩ (softScaled v) then 255
      else if F64.le (softScaled v) zero then 0
      else if (softScaled v).isNaN then free.zeroExtend 16 else BitVec.ofInt 16 (softScaled v).rne := rfl
  rw [hquant, hsoft]
  split_ifs with hhi hlo hnan
  · rfl
  · rfl
  · rfl
  · have hbyte := rne_between_of_unclipped (Bool.eq_false_of_not_eq_true hnan) hhi hlo
    have hwide := toNat_byte hbyte
    refine BitVec.eq_of_toNat_eq ?_
    rw [BitVec.toNat_ofInt]
    omega

/-- The decoder takes the sample, and while a signal is held two soft bytes join the buffer, imaginary arm first (R335, R340). -/
theorem State.decodeSymbol_eq (s : State) (zc zd : Cplx) :
    let zpp := s.dp.gate.zpp
    let s1 := { s with dp.gate.zpp := zc }
    s.decodeSymbol zc zd = if s.dp.gate.st = .noSig then s1
      else softPushed (softPushed s1 (softByte (Config.quantNaN zc zd zpp) (softImag zd zpp)))
        (softByte (Config.quantNaN zc zd zd) (softReal zc zd)) := by
  intro zpp s1
  rw [← quant_eq_softByte, ← quant_eq_softByte]
  rfl

/-- A soft element changes the datapath in its buffer alone, and leaves the settings (R338). -/
theorem State.softPushed_dp (s : State) (x : BitVec 16) :
    (∃ sb, (softPushed s x).dp = { s.dp with gate.sb := sb }) ∧ (softPushed s x).act = s.act := by
  rw [← State.sbPush_eq_softPushed]
  refine ⟨?_, State.sbPush_act s x⟩
  rw [State.sbPush]
  dsimp only
  split
  · exact ⟨_, State.push_dp _ _ _⟩
  · exact ⟨_, rfl⟩

/-- The decoder changes its memory and the soft-bit buffer alone, and leaves the settings (R335, R340). -/
theorem State.decodeSymbol_dp (s : State) (zc zd : Cplx) :
    (∃ sb, (s.decodeSymbol zc zd).dp = { s.dp with gate.zpp := zc, gate.sb := sb }) ∧ (s.decodeSymbol zc zd).act = s.act := by
  rw [State.decodeSymbol_eq]
  dsimp only
  split
  · exact ⟨⟨s.dp.gate.sb, rfl⟩, rfl⟩
  · generalize softByte _ (softImag zd s.dp.gate.zpp) = x
    generalize softByte _ (softReal zc zd) = y
    obtain ⟨⟨sb1, h1⟩, ha1⟩ := State.softPushed_dp { s with dp.gate.zpp := zc } x
    obtain ⟨⟨sb2, h2⟩, ha2⟩ := State.softPushed_dp (softPushed { s with dp.gate.zpp := zc } x) y
    exact ⟨⟨sb2, by rw [h2, h1]⟩, ha2.trans ha1⟩

/-! ### The counters and the continuous-mode lock (R48, R49, R324, R325) -/

theorem State.countSymbol_eq {s : State} {n : DWord} {m : Word} (hn : s.dp.symbolCnt = n) (hm : s.dp.gate.symSince = m) :
    s.countSymbol = { s with dp.symbolCnt := n + 1, dp.gate.symSince := saturated m } := by
  subst hn hm
  rfl

/-- A lock without a reset of the loops: the gate starts, then SIG_PRESENT and the sentinel (R325, R339). -/
theorem State.lockOn_continuous (s : State) : s.lockOn false = softPushed (pushed s.startGate 1 [s.sampleIndex, 0]) 0x100 := rfl

theorem State.contLock_eq (s : State) : s.contLock =
    if s.act.ctrl.getLsbD 0 = true ∧ s.dp.gate.st = .noSig ∧ F64.lt s.dp.qgMse.y s.act.thr = true then
      softPushed (pushed s.startGate 1 [s.sampleIndex, 0]) 0x100
    else s := by
  rw [State.contLock, State.lockOn_continuous, Active.modeCont]
  refine if_congr ?_ rfl rfl
  simp [and_assoc]

end Sys2Proof.Machine

namespace Sys2Proof.Settled

set_option Elab.async false

open Sys2Proof.Machine

/-- Settles O46: the carrier update decides whether the instant faults; behind it the decoder changes nothing that the counters and
the lock read. -/
theorem symbolInstant : Obligations.SymbolInstant := by
  intro s zc zd d e nudge term settled o er ei mse zpp v1 v2 s1 s2 s3 held s4
  refine ⟨turns_carrierError, ?_⟩
  let u : State := { s with dp.car := carrierMoved d e, dp.qgMse.y := mse }
  have hs2 : u.decodeSymbol zc zd = s2 := State.decodeSymbol_eq u zc zd
  obtain ⟨⟨sb, hdp⟩, hact⟩ := hs2 ▸ State.decodeSymbol_dp u zc zd
  have hs3 : s2.countSymbol = s3 := State.countSymbol_eq (by rw [hdp]) (by rw [hdp])
  have hs4 : s3.contLock = s4 := by
    have hact3 : s3.act = s.act := hact
    have hst : s3.dp.gate.st = d.gate.st := congrArg (fun d' => d'.gate.st) hdp
    have hmse : s3.dp.qgMse.y = mse := congrArg (fun d' => d'.qgMse.y) hdp
    have hidx : s3.sampleIndex = d.sampleCnt.extractLsb' 0 32 := congrArg (fun d' => d'.sampleCnt.extractLsb' 0 32) hdp
    have hqgCd : s3.dp.gate.qgCd = d.gate.qgCd := congrArg (fun d' => d'.gate.qgCd) hdp
    have hstart : s3.startGate = held := by rw [State.startGate, hqgCd]
    rw [State.contLock_eq, hact3, hst, hmse, hstart, hidx]
  refine (congrArg (Except.map _) (State.carrierUpdate_eq s zc zd)).trans ?_
  by_cases hok : Turns nudge ∧ (settled → Turns term)
  · rw [if_pos hok, ← hs4, ← hs3, ← hs2]
    exact congrArg (Except.map _) (if_pos hok)
  · rw [if_neg hok]
    exact congrArg (Except.map _) (if_neg hok)

end Sys2Proof.Settled
end

section
/-! SUPPORT. The gate step in each gate state, and the countdown from a lock to the loss (44_quality_softbits.md R326 to R329):
statement O53. -/

namespace Sys2Proof.Machine

-- One theorem at a time: elaborated side by side, they ask for more threads than the memory limit allows.
set_option Elab.async false

open F64

/-! ### The loss (R328) -/

theorem State.push_fifo_of_room {s : State} (hroom : s.fifo.length < 64) (e : Event) :
    (s.push e).fifo = s.fifo ++ [e.record s.evseq] := by
  rcases s.push_cases e with ⟨hfull, -⟩ | ⟨-, h⟩
  · exact absurd hfull (Nat.ne_of_lt hroom)
  · rw [h]

/-- The record of a loss by the countdown (R68, R328). -/
theorem State.push_sigAbsent_countdown (s : State) (idx : Word) : s.push (.sigAbsent idx false) = pushed s 2 [idx, 0] := rfl

theorem Osc.setFrequency_of_turns {hz fs : F64} (o : Osc) (hhz : hz.isFinite = true) (hfs : fs.isFinite = true)
    (hpos : F64.lt F64.zero fs = true) (ht : Turns (hz.div fs)) :
    o.setFrequency hz fs = .ok { o with ftw := turnWord (hz.div fs) } := by
  rw [Osc.setFrequency, le_zero_eq_not_lt hfs, hhz, hfs, hpos, phaseword_of_turns ht]
  rfl

/-- Settings whose centre frequency is a tuning word, so that a loss can put the mixer back (R157, R328). -/
def Active.Retunable (a : Active) : Prop :=
  a.fc.isFinite = true ∧ a.fs.isFinite = true ∧ F64.lt F64.zero a.fs = true ∧ Turns (a.fc.div a.fs)

/-- The state that a loss by the countdown leaves, before its event (R327, R328). -/
def State.signalLost (s : State) : State := { s with
  dp.gate.cd := 0, dp.gate.st := .noSig, dp.gate.carrier := s.act.fc
  dp.qgMse.y := ⟨0x3FF0000000000000⟩
  dp.mix.ftw := turnWord (s.act.fc.div s.act.fs) }

theorem State.lost_of_retunable {s : State} (hcd : s.dp.gate.cd = 0) (ht : s.act.Retunable) :
    s.lost = .ok (s.signalLost.push (.sigAbsent s.sampleIndex false)) := by
  obtain ⟨hfc, hfs, hpos, hturns⟩ := ht
  rw [State.lost_eq, Osc.setFrequency_of_turns _ hfc hfs hpos hturns, State.signalLost, ← hcd]
  rfl

/-! ### The gate step in ACQ and LOCK (R326, R327) -/

theorem State.gateStep_acq {s : State} (h : s.dp.gate.st = .acq) :
    s.gateStep = .ok { s with
      dp.gate.acqEl := s.dp.gate.acqEl + 1
      dp.gate.st := if s.dp.gate.qgDelay ≤ (s.dp.gate.acqEl + 1).toNat then .lock else .acq } := by
  rw [State.gateStep, h]
  dsimp only
  split
  · rfl
  · rw [← h]

theorem State.gateStep_reload {s : State} (h : s.dp.gate.st = .lock) (hmse : F64.lt s.dp.qgMse.y s.act.thr = true) :
    s.gateStep = .ok { s with dp.gate.cd := BitVec.ofNat 32 s.dp.gate.qgCd } := by
  rw [State.gateStep, h]
  exact if_pos hmse

/-- At or above the threshold the countdown decrements, and the signal is lost at zero (R327). -/
theorem State.gateStep_countdown {s : State} (h : s.dp.gate.st = .lock) (hmse : F64.lt s.dp.qgMse.y s.act.thr = false) :
    s.gateStep = if s.dp.gate.cd - 1 = 0 then { s with dp.gate.cd := s.dp.gate.cd - 1 }.lost
      else .ok { s with dp.gate.cd := s.dp.gate.cd - 1 } := by
  rw [State.gateStep, h]
  exact if_neg (by simp [hmse])

theorem State.gateStep_held {s : State} (h : s.dp.gate.st = .lock) (hmse : F64.lt s.dp.qgMse.y s.act.thr = false)
    (hleft : s.dp.gate.cd - 1 ≠ 0) : s.gateStep = .ok { s with dp.gate.cd := s.dp.gate.cd - 1 } := by
  rw [State.gateStep_countdown h hmse, if_neg hleft]

theorem State.gateStep_lost {s : State} (h : s.dp.gate.st = .lock) (hmse : F64.lt s.dp.qgMse.y s.act.thr = false)
    (hleft : s.dp.gate.cd - 1 = 0) (ht : s.act.Retunable) :
    s.gateStep = .ok (s.signalLost.push (.sigAbsent s.sampleIndex false)) := by
  rw [State.gateStep_countdown h hmse, if_pos hleft]
  exact State.lost_of_retunable hleft ht

/-! ### Gate steps in a row -/

theorem State.gateSteps_add (s : State) (m n : Nat) : s.gateSteps (m + n) = (s.gateSteps m).bind fun t => t.gateSteps n := by
  induction m generalizing s with
  | zero => rw [Nat.zero_add]; rfl
  | succ m ih =>
    rw [Nat.succ_add, State.gateSteps, State.gateSteps]
    cases s.gateStep with
    | error c => rfl
    | ok t => exact ih t

/-- Gate steps follow a sequence of states of which each steps to the next. -/
theorem State.gateSteps_of_chain {f : Nat → State} {n : Nat} (hstep : ∀ j < n, (f j).gateStep = .ok (f (j + 1))) :
    (f 0).gateSteps n = .ok (f n) := by
  induction n with
  | zero => rfl
  | succ n ih =>
    rw [State.gateSteps_add, ih fun j hj => hstep j (hj.trans n.lt_succ_self), Except.bind, State.gateSteps,
      hstep n n.lt_succ_self]
    rfl

/-! ### The countdown from a lock (R326, R327, R329) -/

/-- How many gate steps a lock stays in ACQ (R326). -/
def Gate.delay (g : Gate) : Nat := max g.qgDelay 1

/-- The state k gate steps after a lock with the MSE at or above the threshold, before the loss: the delay counts up to its end,
and only then the countdown runs (R326, R327). -/
def State.afterLock (s : State) (k : Nat) : State := { s with
  dp.gate.acqEl := BitVec.ofNat 32 (min k s.dp.gate.delay)
  dp.gate.st := if k < s.dp.gate.delay then .acq else .lock
  dp.gate.cd := BitVec.ofNat 32 (s.dp.gate.qgCd - (k - s.dp.gate.delay)) }

section Countdown

variable {s : State} {k : Nat}

theorem Gate.delay_pos (g : Gate) : 0 < g.delay := lt_max_of_lt_right Nat.one_pos

theorem State.afterLock_zero (hst : s.dp.gate.st = .acq) (hel : s.dp.gate.acqEl = 0)
    (hcd : s.dp.gate.cd = BitVec.ofNat 32 s.dp.gate.qgCd) : s.afterLock 0 = s := by
  rw [State.afterLock, Nat.zero_min, if_pos s.dp.gate.delay_pos, Nat.zero_sub, Nat.sub_zero, ← hst, ← hcd]
  change { s with dp.gate.acqEl := 0 } = s
  rw [← hel]

theorem State.afterLock_held (s : State) (k : Nat) : (s.afterLock k).dp.gate.st ≠ .noSig := by
  rw [State.afterLock]
  dsimp only
  split <;> decide

theorem State.afterLock_lock (hk : s.dp.gate.delay ≤ k) : (s.afterLock k).dp.gate.st = .lock := if_neg hk.not_gt

/-- One more step of a running countdown. -/
theorem State.afterLock_left (hk : s.dp.gate.delay ≤ k) (hlast : k < s.dp.gate.delay + s.dp.gate.qgCd) :
    (s.afterLock k).dp.gate.cd - 1 = BitVec.ofNat 32 (s.dp.gate.qgCd - (k + 1 - s.dp.gate.delay)) := by
  have hleft : s.dp.gate.qgCd - (k - s.dp.gate.delay) = s.dp.gate.qgCd - (k + 1 - s.dp.gate.delay) + 1 := by omega
  change BitVec.ofNat 32 (s.dp.gate.qgCd - (k - s.dp.gate.delay)) - 1 = _
  rw [hleft, BitVec.ofNat_add]
  exact BitVec.add_sub_cancel _ _

/-- A step of the delay: the last one enters LOCK with the countdown untouched (R326). -/
theorem State.gateStep_afterLock_delay (hdelay : s.dp.gate.qgDelay < 2 ^ 32) (hk : k < s.dp.gate.delay) :
    (s.afterLock k).gateStep = .ok (s.afterLock (k + 1)) := by
  have hmax : s.dp.gate.delay = max s.dp.gate.qgDelay 1 := rfl
  have hacq : (s.afterLock k).dp.gate.st = .acq := if_pos hk
  have hel : (s.afterLock k).dp.gate.acqEl + 1 = BitVec.ofNat 32 (min (k + 1) s.dp.gate.delay) := by
    change BitVec.ofNat 32 (min k s.dp.gate.delay) + 1 = _
    rw [min_eq_left hk.le, min_eq_left (Nat.succ_le_of_lt hk)]
    exact (BitVec.ofNat_add ..).symm
  have hcount : (BitVec.ofNat 32 (min (k + 1) s.dp.gate.delay)).toNat = k + 1 := by
    rw [BitVec.toNat_ofNat]
    omega
  have hst : (if s.dp.gate.qgDelay ≤ k + 1 then GateState.lock else .acq) = if k + 1 < s.dp.gate.delay then .acq else .lock := by
    rw [← ite_not (k + 1 < s.dp.gate.delay)]
    exact if_congr (by omega) rfl rfl
  have hcd : s.dp.gate.qgCd - (k - s.dp.gate.delay) = s.dp.gate.qgCd - (k + 1 - s.dp.gate.delay) := by omega
  have hqg : (s.afterLock k).dp.gate.qgDelay = s.dp.gate.qgDelay := rfl
  rw [State.gateStep_acq hacq, hel, hcount, hqg, hst, State.afterLock, State.afterLock, hcd]

/-- A step of the countdown before its last (R327). -/
theorem State.gateStep_afterLock_countdown (hmse : F64.lt s.dp.qgMse.y s.act.thr = false) (hcd : s.dp.gate.qgCd < 2 ^ 32)
    (hk : s.dp.gate.delay ≤ k) (hlast : k + 1 < s.dp.gate.delay + s.dp.gate.qgCd) :
    (s.afterLock k).gateStep = .ok (s.afterLock (k + 1)) := by
  have hleft := State.afterLock_left hk (by omega)
  have hne : BitVec.ofNat 32 (s.dp.gate.qgCd - (k + 1 - s.dp.gate.delay)) ≠ 0 := by
    rw [← BitVec.toNat_ne_iff_ne, BitVec.toNat_ofNat]
    change _ ≠ 0
    omega
  have hmin : min k s.dp.gate.delay = min (k + 1) s.dp.gate.delay := by omega
  rw [State.gateStep_held (State.afterLock_lock hk) hmse (hleft ▸ hne), hleft, State.afterLock, State.afterLock, hmin,
    if_neg hk.not_gt, if_neg (hk.trans k.le_succ).not_gt]

/-- Before the loss, every number of gate steps after a lock is of the delay or of the countdown (R329). -/
theorem State.gateSteps_afterLock (hmse : F64.lt s.dp.qgMse.y s.act.thr = false) (hcd : s.dp.gate.qgCd < 2 ^ 32)
    (hdelay : s.dp.gate.qgDelay < 2 ^ 32) (hk : k < s.dp.gate.delay + s.dp.gate.qgCd) :
    (s.afterLock 0).gateSteps k = .ok (s.afterLock k) := by
  refine State.gateSteps_of_chain fun j hj => ?_
  rcases lt_or_ge j s.dp.gate.delay with hacq | hlock
  · exact State.gateStep_afterLock_delay hdelay hacq
  · exact State.gateStep_afterLock_countdown hmse hcd hlock (by omega)

/-- The step behind them loses the signal (R327 to R329). -/
theorem State.gateSteps_lost (hmse : F64.lt s.dp.qgMse.y s.act.thr = false) (hcd : s.dp.gate.qgCd < 2 ^ 32)
    (hcd1 : 1 ≤ s.dp.gate.qgCd) (hdelay : s.dp.gate.qgDelay < 2 ^ 32) (ht : s.act.Retunable) :
    (s.afterLock 0).gateSteps (s.dp.gate.delay + s.dp.gate.qgCd) =
      .ok ({ s with dp.gate.acqEl := BitVec.ofNat 32 s.dp.gate.delay }.signalLost.push (.sigAbsent s.sampleIndex false)) := by
  obtain ⟨m, hm⟩ : ∃ m, s.dp.gate.delay + s.dp.gate.qgCd = m + 1 := ⟨s.dp.gate.delay + s.dp.gate.qgCd - 1, by omega⟩
  have hlock : s.dp.gate.delay ≤ m := by omega
  have hleft : (s.afterLock m).dp.gate.cd - 1 = 0 := by
    rw [State.afterLock_left hlock (by omega), show s.dp.gate.qgCd - (m + 1 - s.dp.gate.delay) = 0 by omega]
    rfl
  have hstep := State.gateStep_lost (State.afterLock_lock hlock) hmse hleft ht
  rw [hm, State.gateSteps_add, State.gateSteps_afterLock hmse hcd hdelay (by omega), Except.bind, State.gateSteps, hstep,
    State.afterLock, min_eq_right hlock]
  rfl

end Countdown

end Sys2Proof.Machine

namespace Sys2Proof.Settled

set_option Elab.async false

open Sys2Proof.Machine

/-- Settles O53: the countdown runs through the states after the lock, the whole step by the gate states. -/
theorem gateCountdown : Obligations.GateCountdown := by
  constructor
  · intro s hst hel hcd0 hcd1 hcd hdelay hroom hmse hfc hfs hpos ht n
    have hzero := State.afterLock_zero hst hel hcd0
    constructor
    · intro k hk
      exact ⟨s.afterLock k, hzero ▸ State.gateSteps_afterLock hmse hcd hdelay hk, s.afterLock_held k, rfl⟩
    · have hlost := State.gateSteps_lost hmse hcd hcd1 hdelay ⟨hfc, hfs, hpos, ht⟩
      rw [hzero] at hlost
      refine ⟨_, hlost, ?_⟩
      rw [State.push_dp]
      refine ⟨rfl, rfl, State.push_fifo_of_room ?_ _, rfl, rfl, rfl⟩
      exact hroom
  · intro s g left
    refine ⟨State.gateStep_noSig, State.gateStep_acq, State.gateStep_reload, State.gateStep_held, ?_⟩
    intro hst hmse hleft hfc hfs hpos ht
    rw [State.gateStep_lost hst hmse hleft ⟨hfc, hfs, hpos, ht⟩, State.push_sigAbsent_countdown]
    rfl

end Sys2Proof.Settled
end

section
/-! SUPPORT. How many events one sample pushes, and how many of them carry soft bits (10_state.md R67;
44_quality_softbits.md R338; 45_sample_pipeline.md R351, R355): statement O51. -/

namespace Sys2Proof.Machine

-- One theorem at a time: elaborated side by side, they ask for more threads than the memory limit allows.
set_option Elab.async false

/-! ### Records delivered (R67) -/

/-- The FIFO with its counter and flag, and the soft-bit buffer, are the same. -/
structure SameLog (s t : State) : Prop where
  fifo : t.fifo = s.fifo := by rfl
  evovf : t.evovf = s.evovf := by rfl
  evseq : t.evseq = s.evseq := by rfl
  sb : t.dp.gate.sb = s.dp.gate.sb := by rfl

/-- From `s` to `t` the records `new` joined the FIFO behind the earlier ones, each is counted, and none was dropped. -/
structure Delivers (s t : State) (new : List EvRecord) : Prop where
  fifo : t.fifo = s.fifo ++ new
  evovf : t.evovf = s.evovf
  evseq : t.evseq = s.evseq + BitVec.ofNat 32 new.length

theorem SameLog.delivers {s t : State} (h : SameLog s t) : Delivers s t [] :=
  ⟨by simp [h.fifo], h.evovf, by simp [h.evseq]⟩

theorem Delivers.trans {s t u : State} {new new' : List EvRecord} (h : Delivers s t new) (h' : Delivers t u new') :
    Delivers s u (new ++ new') where
  fifo := by rw [h'.fifo, h.fifo, List.append_assoc]
  evovf := h'.evovf.trans h.evovf
  evseq := by rw [h'.evseq, h.evseq, List.length_append, BitVec.ofNat_add, BitVec.add_assoc]

theorem State.push_delivers {s : State} (e : Event) (hroom : s.fifo.length < 64) :
    Delivers s (s.push e) [e.record s.evseq] := by
  rcases s.push_cases e with ⟨hfull, -⟩ | ⟨-, h⟩
  · exact absurd hfull (Nat.ne_of_lt hroom)
  · rw [h]
    exact ⟨rfl, rfl, rfl⟩

theorem Delivers.newRecords {s t : State} {new : List EvRecord} (h : Delivers s t new) : newRecords s t = new := by
  rw [Machine.newRecords, h.fifo, List.drop_left]

/-! ### The soft-bit buffer over several elements (R338) -/

/-- At most k elements join a soft-bit buffer, which is flushed f times: not at all, or once, and then it holds only elements
that joined behind the flush. A second flush would take twelve more. -/
def Fills (k f : Nat) (b b' : List (BitVec 16)) : Prop :=
  (f = 0 ∧ b'.length ≤ b.length + k) ∨ (f = 1 ∧ 12 ≤ b.length + k ∧ b'.length < k)

theorem Fills.le_one {k f : Nat} {b b' : List (BitVec 16)} (h : Fills k f b b') : f ≤ 1 := by
  unfold Fills at h
  omega

theorem Fills.trans {k f k' f' : Nat} {b b' b'' : List (BitVec 16)} (h : Fills k f b b') (h' : Fills k' f' b' b'')
    (hk : k + k' ≤ 12) : Fills (k + k') (f + f') b b'' := by
  unfold Fills at *
  omega

/-! ### What a computation logs

`Logs n k s t`: from `s` to `t` at most n events other than SOFT_BATCH are pushed and at most k elements join the soft-bit
buffer; where the FIFO has room for these events and for the flush, none is dropped. -/

/-- f is the number of flushes. -/
def Logs (n k : Nat) (s t : State) : Prop :=
  ∃ f, Fills k f s.dp.gate.sb t.dp.gate.sb ∧
    (s.fifo.length + (n + f) ≤ 64 →
      ∃ new, Delivers s t new ∧ new.length ≤ n + f ∧ new.countP (fun e => e.type == 6) = f)

theorem Logs.still {s t : State} {n k : Nat} (h : SameLog s t := by exact {}) : Logs n k s t :=
  ⟨0, .inl ⟨rfl, h.sb ▸ Nat.le_add_right _ _⟩, fun _ => ⟨[], h.delivers, Nat.zero_le _, rfl⟩⟩

theorem Logs.trans {n k n' k' : Nat} {s t u : State} (h : Logs n k s t) (h' : Logs n' k' t u)
    (hk : k + k' ≤ 12 := by omega) : Logs (n + n') (k + k') s u := by
  obtain ⟨f, hfill, hrec⟩ := h
  obtain ⟨f', hfill', hrec'⟩ := h'
  refine ⟨f + f', hfill.trans hfill' hk, fun hroom => ?_⟩
  obtain ⟨new, hnew, hlen, hsoft⟩ := hrec (by omega)
  have hfifo : t.fifo.length = s.fifo.length + new.length := by rw [hnew.fifo, List.length_append]
  obtain ⟨new', hnew', hlen', hsoft'⟩ := hrec' (by omega)
  refine ⟨new ++ new', hnew.trans hnew', ?_, ?_⟩
  · rw [List.length_append]
    omega
  · rw [List.countP_append, hsoft, hsoft']

theorem Logs.mono {n k m : Nat} {s t : State} (h : Logs n k s t) (hn : n ≤ m) (hk : k ≤ 12 := by omega) : Logs m k s t :=
  Nat.add_sub_of_le hn ▸ h.trans (n' := m - n) (k' := 0) .still

/-- A state with the same log may stand for the first. -/
theorem Logs.before {n k : Nat} {s u t : State} (h : Logs n k u t) (hu : SameLog s u := by exact {})
    (hk : k ≤ 12 := by omega) : Logs n k s t := by
  simpa using (Logs.still (n := 0) (k := 0) hu).trans h

/-- A state with the same log may stand for the last. -/
theorem Logs.after {n k : Nat} {s t u : State} (h : Logs n k s t) (hu : SameLog t u := by exact {})
    (hk : k ≤ 12 := by omega) : Logs n k s u :=
  h.trans (n' := 0) (k' := 0) (.still hu)

/-- A push of an event other than SOFT_BATCH. -/
theorem State.push_logs (s : State) (e : Event) (he : e.type ≠ 6) : Logs 1 0 s (s.push e) := by
  refine ⟨0, .inl ⟨rfl, by simp⟩, fun hroom => ⟨_, s.push_delivers e (by omega), le_rfl, ?_⟩⟩
  simp [Event.record_type, he]

/-- One soft element, with or without the flush (R338). -/
theorem State.sbPush_logs (s : State) (x : BitVec 16) : Logs 0 1 s (s.sbPush x) := by
  have hsb := s.sbPush_sb x
  by_cases hfull : (s.dp.gate.sb ++ [x]).length = params.sbBatch
  · have hlen : s.dp.gate.sb.length + 1 = 12 := List.length_append.symm.trans hfull
    rw [if_pos hfull] at hsb
    refine ⟨1, .inr ⟨rfl, hlen.ge, hsb ▸ Nat.one_pos⟩, fun hroom => ?_⟩
    rw [State.sbPush, if_pos hfull]
    have hdel := State.push_delivers (s := { s with dp.gate.sb := [] }) (.softBatch (s.dp.gate.sb ++ [x]))
      (show s.fifo.length < 64 by omega)
    exact ⟨_, ⟨hdel.fifo, hdel.evovf, hdel.evseq⟩, le_rfl, by simp [Event.record_type, Event.type]⟩
  · rw [if_neg hfull] at hsb
    refine ⟨0, .inl ⟨rfl, by simp [hsb]⟩, fun _ => ?_⟩
    rw [State.sbPush, if_neg hfull]
    exact ⟨[], ⟨by simp, rfl, by simp⟩, Nat.zero_le _, rfl⟩

/-! ### Lock, gate and counters (R325 to R331) -/

theorem State.lockOn_st (s : State) (b : Bool) : (s.lockOn b).dp.gate.st = .acq := by
  rw [State.lockOn, State.sbPush_st, State.push_dp]
  cases b <;> rfl

theorem State.lockOn_logs (s : State) (b : Bool) : Logs 1 1 s (s.lockOn b) := by
  set u := (if b then s.resetLoops else s).startGate
  have hlog : SameLog s u := by cases b <;> exact {}
  exact ((u.push_logs (.sigPresent u.sampleIndex b) (by simp [Event.type])).trans (State.sbPush_logs _ _)).before hlog

/-- The gate step pushes nothing, or one SIG_ABSENT where it was in LOCK. -/
theorem State.gateStep_logs {s t : State} (h : s.gateStep = .ok t) :
    Logs 0 0 s t ∨ (s.dp.gate.st = .lock ∧ Logs 1 0 s t) := by
  rcases State.gateStep_ok h with rfl | ⟨-, n, st, -, rfl⟩ | ⟨-, c, rfl⟩ | ⟨hst, c, hl⟩
  · exact .inl .still
  · exact .inl .still
  · exact .inl .still
  · obtain ⟨w, rfl⟩ := State.lost_ok hl
    exact .inr ⟨hst, (State.push_logs _ _ (by simp [Event.type])).before⟩

theorem State.stageCount_logs (s : State) : Logs 1 0 s s.stageCount := by
  rcases s.stageCount_cases with h | ⟨e, h⟩ <;> rw [h]
  · exact .still
  · exact (State.push_logs _ _ (by simp [Event.type])).before

/-! ### The stages before the gate (R252, R324) -/

/-- At most k soft elements, and: at most n other events and the same gate; or, where no signal was held, a lock, with at most
m other events in all. -/
def LogsOrLocks (n m k : Nat) (s t : State) : Prop :=
  (Logs n k s t ∧ t.dp.gate.st = s.dp.gate.st) ∨ (s.dp.gate.st = .noSig ∧ t.dp.gate.st = .acq ∧ Logs m k s t)

/-- One lock at most: after the first a signal is held. -/
theorem LogsOrLocks.trans {n m k n' m' k' j : Nat} {s t u : State} (h : LogsOrLocks n m k s t)
    (h' : LogsOrLocks n' m' k' t u) (hk : k + k' ≤ 12) (hj : n + m' ≤ j) (hj' : m + n' ≤ j) :
    LogsOrLocks (n + n') j (k + k') s u := by
  rcases h with ⟨hlog, hst⟩ | ⟨hs, ht, hlog⟩ <;> rcases h' with ⟨hlog', hst'⟩ | ⟨hs', ht', hlog'⟩
  · exact .inl ⟨hlog.trans hlog', hst'.trans hst⟩
  · exact .inr ⟨hst ▸ hs', ht', (hlog.trans hlog').mono hj⟩
  · exact .inr ⟨hs, hst'.trans ht, (hlog.trans hlog').mono hj'⟩
  · rw [ht] at hs'
    cases hs'

theorem LogsOrLocks.before {n m k : Nat} {s u t : State} (h : LogsOrLocks n m k u t) (hu : SameLog s u := by exact {})
    (hst : u.dp.gate.st = s.dp.gate.st := by rfl) (hk : k ≤ 12 := by omega) : LogsOrLocks n m k s t :=
  h.imp (fun ⟨hlog, h⟩ => ⟨hlog.before hu, h.trans hst⟩) fun ⟨h, h', hlog⟩ => ⟨hst ▸ h, h', hlog.before hu⟩

theorem State.contLock_logsOrLocks (s : State) : LogsOrLocks 0 1 1 s s.contLock := by
  rcases s.contLock_cases with h | ⟨hst, h⟩ <;> rw [h]
  · exact .inl ⟨.still, rfl⟩
  · exact .inr ⟨hst, s.lockOn_st false, s.lockOn_logs false⟩

/-- A symbol instant takes two soft bytes while a signal is held, or may lock where none is. -/
theorem State.stageSymbol_logsOrLocks {s t : State} {zc zd : Cplx} (h : s.stageSymbol zc zd = .ok t) :
    LogsOrLocks 0 1 3 s t := by
  obtain ⟨o, m, -, rfl⟩ := State.stageSymbol_ok h
  set u : State := { s with dp.car := o, dp.qgMse.y := m }
  have hdec : Logs 0 2 u (u.decodeSymbol zc zd) := by
    rcases u.decodeSymbol_cases zc zd with h | ⟨-, x, y, -, -, h⟩ <;> rw [h]
    · exact .still
    · exact ((State.sbPush_logs _ x).trans (State.sbPush_logs _ y)).before
  have hst : (u.decodeSymbol zc zd).dp.gate.st = u.dp.gate.st := (u.decodeSymbol_emits zc zd).1
  set v := u.decodeSymbol zc zd
  have hdec' : Logs 0 2 s v := hdec.before
  have hkeep : LogsOrLocks 0 0 2 s v.countSymbol := .inl ⟨hdec'.after, hst⟩
  exact hkeep.trans v.countSymbol.contLock_logsOrLocks (by decide) le_rfl (by decide)

/-- An acceptance pushes CARRIER_FREQ and locks, from a state with the log of `s`. -/
theorem State.acceptActions_logs {s t : State} {lo hi : Int} {hzb : F64} {b : Cplx} (h : s.acceptActions lo hi hzb b = .ok t) :
    t.dp.gate.st = .acq ∧ Logs 2 1 s t := by
  obtain ⟨u, f, hu, rfl⟩ : ∃ (u : State) (f : F64), SameLog s u ∧
      t = { (u.push (.carrierFreq f)).lockOn true with dp.acq.st := .locked } := by
    obtain ⟨w, p, f, ht⟩ := State.acceptActions_ok h
    refine ⟨_, f, ?_, ht⟩
    exact {}
  have hlog := (u.push_logs (.carrierFreq f) (by simp [Event.type])).trans ((u.push (.carrierFreq f)).lockOn_logs true)
  exact ⟨(u.push (.carrierFreq f)).lockOn_st true, (hlog.before hu).after⟩

theorem State.verify_logsOrLocks {s t : State} (h : s.verify = .ok t) : LogsOrLocks 0 2 1 s t := by
  rcases State.verify_ok h with rfl | ⟨hst, lo, hi, hzb, b, hacc⟩
  · exact .inl ⟨.still, rfl⟩
  · exact .inr ⟨hst, State.acceptActions_logs hacc⟩

theorem State.burstStep_logsOrLocks {s t : State} {xm : Cplx} (h : s.burstStep xm = .ok t) : LogsOrLocks 0 2 1 s t := by
  obtain ⟨ys, yl, bt, hfill⟩ := State.burstStep_ok h
  rcases State.fillStep_ok hfill with ⟨-, rfl⟩ | ⟨-, -, rfl⟩ | ⟨-, -, hv⟩
  · exact .inl ⟨.still, rfl⟩
  · exact .inl ⟨.still, rfl⟩
  · exact (State.verify_logsOrLocks hv).before

theorem State.contStep_logs (s : State) (xm : Cplx) : Logs 1 0 s (s.contStep xm) := by
  rcases s.contStep_cases xm with ⟨-, h⟩ | ⟨m, n, e, -, h⟩ <;> rw [h]
  · exact .still
  · exact (State.push_logs _ _ (by simp [Event.type])).before

/-- Acquisition pushes at most FREQ_EST, or CARRIER_FREQ with a lock where no signal is held. -/
theorem State.acquire_logsOrLocks {s t : State} {xm : Cplx} (h : s.acquire xm = .ok t) : LogsOrLocks 1 2 1 s t := by
  rcases State.acquire_ok h with ⟨-, rfl⟩ | ⟨-, hb⟩
  · exact .inl ⟨(s.contStep_logs xm).trans (n' := 0) (k' := 1) .still, (s.contStep_emits xm).2⟩
  · exact (State.burstStep_logsOrLocks hb).imp_left fun ⟨hlog, hst⟩ => ⟨hlog.mono (by decide), hst⟩

/-! ### The whole sample (R350, R355) -/

/-- The gate step and the counters end a sample: a signal locked in this sample is not lost in it. -/
theorem LogsOrLocks.ended {s u v : State} {k : Nat} (h : LogsOrLocks 1 2 k s u) (hk : k ≤ 12) (hg : u.gateStep = .ok v) :
    Logs 3 k s v.stageCount := by
  have hcount := v.stageCount_logs
  rcases h with ⟨hlog, -⟩ | ⟨-, hacq, hlog⟩ <;> rcases State.gateStep_logs hg with hgate | ⟨hlock, hgate⟩
  · exact ((hlog.trans hgate).trans hcount).mono (by decide)
  · exact (hlog.trans hgate).trans hcount
  · exact (hlog.trans hgate).trans hcount
  · rw [hacq] at hlock
    cases hlock

/-- A sample that goes through: at most three events other than SOFT_BATCH, and four soft elements. -/
theorem State.sampleCore_logs {s t : State} {i q : Int} (h : s.sampleCore i q = .ok t) : Logs 3 4 s t := by
  obtain ⟨m, xm, s3, tr, s10, s11, h3, htr, h10, h11, rfl⟩ := State.sampleCore_stages h
  have hacq : LogsOrLocks 1 2 1 s s3 := (State.acquire_logsOrLocks h3).before
  obtain ⟨x, y, u, r, e, d, htrack⟩ := State.trackSample_ok htr
  have hsym : LogsOrLocks 0 1 3 s3 s10 := by
    rcases h10 with rfl | h10
    · rw [htrack]
      exact .inl ⟨.still, rfl⟩
    · rw [htrack] at h10
      exact (State.stageSymbol_logsOrLocks h10).before
  exact (hacq.trans hsym (j := 2) (by decide) le_rfl le_rfl).ended (by decide) h11

/-- A step whose records report DCD does not push both a SIG_PRESENT and a SIG_ABSENT (R320). -/
theorem DcdReported.not_both {s t : State} (h : DcdReported s t) :
    ¬((∃ e ∈ newRecords s t, e.type = 1) ∧ ∃ e ∈ newRecords s t, e.type = 2) := by
  rintro ⟨⟨e, he, hty⟩, e', he', hty'⟩
  obtain ⟨hrise, hfall⟩ := h
  have hpos := List.countP_pos_iff (p := fun e => e.type == 1).mpr ⟨e, he, by simp [hty]⟩
  have hpos' := List.countP_pos_iff (p := fun e => e.type == 2).mpr ⟨e', he', by simp [hty']⟩
  rw [hrise] at hpos
  rw [hfall] at hpos'
  cases hd : s.dcd <;> simp [hd] at hpos hpos'

end Sys2Proof.Machine

namespace Sys2Proof.Settled

set_option Elab.async false

open Sys2Proof.Machine

/-- Settles O51: a refused sample pushes nothing; an accepted one finds room for four records, of which its stages take three
at most and the one flush the fourth. -/
theorem atMostFourEvents : Obligations.AtMostFourEvents := by
  intro s t i q hf h ht
  obtain rfl : runSample i q s = t := Host.Outcome.next.inj h
  by_cases hroom : s.fifo.length ≤ 60
  · have hcore := runSample_accepted hf hroom ht
    obtain ⟨f, hfill, hrec⟩ := State.sampleCore_logs hcore
    have hf1 := hfill.le_one
    obtain ⟨new, hnew, hlen, hsoft⟩ := hrec (by omega)
    have hboth := (State.sampleCore_edge hcore hroom).reported.not_both
    rw [hnew.newRecords] at hboth
    exact ⟨new, hnew.fifo, by omega, hnew.evovf, by omega, hboth, hnew.evseq⟩
  · have hback : s.backPressure = true := decide_eq_true (Nat.lt_of_not_le hroom)
    rw [runSample, hf, hback]
    exact ⟨[], by simp, by simp, rfl, by simp, by simp, by simp⟩

end Sys2Proof.Settled
end

section
/-! SUPPORT. The control commands and EV_POP: what NOP and EV.FLUSH leave, the head record, the ranges of APPLY's clamps and its fixed
point (10_state.md R67 to R69; 46_control.md R370 to R379; 60_exceptions.md R404): statements O17, O20, O22 and O23. -/

namespace Sys2Proof.Machine

-- One theorem at a time: elaborated side by side, they ask for more threads than the memory limit allows.
set_option Elab.async false

open F64

/-! ### APPLY's event and its fixed point (R371 to R374) -/

theorem State.applyEvent_of_noSig {old : State} (h : old.dp.gate.st = .noSig) (new : State) : old.applyEvent new = new := by
  rw [applyEvent_eq, if_pos h]

theorem State.applyEvent_of_held {old : State} (h : old.dp.gate.st ≠ .noSig) (new : State) :
    old.applyEvent new = new.push (.sigAbsent old.sampleIndex true) := by
  rw [State.applyEvent, dcd_eq, if_pos (decide_eq_true h)]

/-- The event writes neither the settings nor anything of the datapath (R67, R373). -/
theorem State.applyEvent_frame (old new : State) : (old.applyEvent new).fault = new.fault ∧
    (old.applyEvent new).pend = new.pend ∧ (old.applyEvent new).ctrl = new.ctrl ∧ (old.applyEvent new).act = new.act ∧
    (old.applyEvent new).dp = new.dp := by
  by_cases h : old.dp.gate.st = .noSig
  · rw [applyEvent_of_noSig h]
    exact ⟨rfl, rfl, rfl, rfl, rfl⟩
  · rw [applyEvent_of_held h]
    simp

/-- Clamp and rebuild read the pending settings and CTRL alone: a state that holds what they write is left as it is (R374). -/
theorem State.applied_eq_self {t : State} (hact : t.act = activeOf t.pend t.ctrl) (hdp : t.dp = rebuild t.act) :
    t.applied = t := by
  rw [State.applied, ← hact, ← hdp]

/-- An APPLY on such a state changes nothing and pushes no event: rebuild leaves no signal held (R373, R374). -/
theorem execApply_of_applied {t : State} (hf : t.fault = false) (hlegal : settingsLegal t.pend = true)
    (hact : t.act = activeOf t.pend t.ctrl) (hdp : t.dp = rebuild t.act) : execApply t = .next t := by
  have hst : t.dp.gate.st = .noSig := by rw [hdp]; rfl
  rw [execApply_of_legal hf hlegal, State.applied_eq_self hact hdp, State.applyEvent_of_noSig hst]

/-- APPLY run again after an APPLY (R374). -/
theorem execApply_again {s : State} (hf : s.fault = false) (hlegal : settingsLegal s.pend = true) :
    execApply (s.applyEvent s.applied) = .next (s.applyEvent s.applied) := by
  obtain ⟨hfault, hpend, hctrl, hact, hdp⟩ := s.applyEvent_frame s.applied
  refine execApply_of_applied (hfault.trans hf) ?_ ?_ ?_
  · rwa [hpend]
  · rw [hact, hpend, hctrl]
    rfl
  · rw [hdp, hact]
    rfl

/-! ### The ranges of the clamps (R371) -/

/-- The clamp from below comes last, so FB is at least FS / SPS_MAX (R371). -/
theorem div_spsMax_le_clampFb {fs fb : F64} (hfs : fs.isFinite = true) (hfb : fb.isFinite = true) (hfs0 : 0 < fs.toReal) :
    F64.le (fs.div params.spsMax) (clampFb fs fb) = true := by
  obtain ⟨hq, -⟩ := div_between (y := params.spsMax) hfs hfs0.le (by decide) (by rw [toReal_spsMax]; norm_num)
  exact (fmax_spec (isFinite_not_isNaN (fmin_finite hfb hfs)) (isFinite_not_isNaN hq)).2.2

/-- Where its range is not empty the centre frequency is clamped to it (R371). -/
theorem clampFc_of_range {fs fb : F64} (h : F64.le (threeQuarters.mul fb) ((fs.div two).sub (threeQuarters.mul fb)) = true)
    (fc : F64) :
    clampFc fs fb fc = clamp fc (threeQuarters.mul fb) ((fs.div two).sub (threeQuarters.mul fb)) := if_pos h

theorem clampFc_of_empty {fs fb : F64} (h : F64.le (threeQuarters.mul fb) ((fs.div two).sub (threeQuarters.mul fb)) = false)
    (fc : F64) : clampFc fs fb fc = fs.div four := if_neg (Bool.not_eq_true _ ▸ h)

/-! ### EV_POP and the event words (R68, R379) -/

/-- EV_POP is written at any time: R404 accepts the write while FAULT = 1. -/
theorem step_evPop {s : State} {v : Word} {rest : List Access} (hp : s.bus.pending = write32 evPopOffset v :: rest) :
    step s = .next (s.takeAccess rest).popEvent := by
  have haligned : (write32 evPopOffset v).aligned32 = true := by simp [write32, Access.aligned32, evPopOffset]
  have hopen : (write32 evPopOffset v).acceptedWhileFaulted = true := by
    rw [Access.acceptedWhileFaulted, haligned]
    simp [write32]
  rw [step_access hp (by decide : evPopOffset < 0x1000), takeAccess, hopen, haligned, Bool.not_true, Bool.and_false]
  rfl

/-- EV_W0 to EV_W7 show the words of the head record, 0 where there is none (R68, R379). -/
theorem readWord_evWord (s : State) (n : Fin 8) :
    readWord s (0x150 + 4 * n) = (s.fifo.head?.map fun e => e.word n).getD 0 := by
  have hreg : ∀ n : Fin 8, regAt (0x150 + 4 * n) = some (.evWord n) := by decide +kernel
  rw [readWord_of_regAt s (hreg n), readReg]

/-! ### NOP and EV.FLUSH (R370, R376) -/

theorem execNop_eq (s : State) : execNop s = .next s := by
  refine congrArg Host.Outcome.next ?_
  cases hf : s.fault with
  | false => exact runCommand_ok (written := []) hf rfl rfl rfl
  | true => exact runCommand_refused hf

theorem execEvFlush_of_fault {s : State} (hf : s.fault = true) : execEvFlush s = .next s := congrArg _ (runCommand_refused hf)

theorem execEvFlush_of_no_fault {s : State} (hf : s.fault = false) :
    execEvFlush s = .next { s with fifo := [] }.clearSticky :=
  congrArg _ (runCommand_ok (written := []) hf rfl rfl rfl)

end Sys2Proof.Machine

namespace Sys2Proof.Settled

set_option Elab.async false

open Sys2Proof.Machine

/-- Settles O22: the first APPLY leaves what clamp and rebuild write, so the second is the identity. -/
theorem applyIdempotent : Obligations.ApplyIdempotent := by
  intro s hf hlegal
  refine ⟨s.applyEvent s.applied, execApply_of_legal hf hlegal, execApply_again hf hlegal, fun hst => ?_, fun hst hroom => ?_⟩
  · rw [State.applyEvent_of_noSig hst]
    exact ⟨rfl, rfl⟩
  · rw [State.applyEvent_of_held hst]
    exact ⟨_, Event.record_type _ _, State.push_fifo_of_room (s := s.applied) hroom _⟩

/-- Settles O23: each clamp against its own bounds, the lower bound of FB and the range of FC included. -/
theorem clampedSettings : Obligations.ClampedSettings := by
  intro p c hlegal a lo hi
  have ha : a.Clamped := activeOf_clamped c hlegal
  obtain ⟨⟨hfs, hfb, hfc, hlbw, hthr⟩, hfs0, -⟩ := settingsLegal_iff.mp hlegal
  have hfsPos : 0 < p.fs.toReal := toReal_pos_of_not_le hfs hfs0
  have hzero : F64.zero.isNaN = false := by decide
  obtain ⟨hlbwMin, hlbwMax⟩ : F64.le F64.zero a.lbw = true ∧ F64.le a.lbw a.fs = true :=
    F64.clamp_between_of_not_isNaN (F64.le_of_lt' (F64.lt_zero_of_toReal_pos hfs hfsPos)) (F64.isFinite_not_isNaN hlbw)
  have hfcRange (hrange : F64.le lo hi = true) : F64.le lo a.fc = true ∧ F64.le a.fc hi = true := by
    rw [show a.fc = F64.clamp p.freqCenter lo hi from clampFc_of_range hrange _]
    exact F64.clamp_between_of_not_isNaN hrange (F64.isFinite_not_isNaN hfc)
  obtain ⟨hfftpMin, hfftpMax⟩ := clampFftPower_range p.fftPower
  exact ⟨rfl, F64.lt_zero_of_toReal_pos ha.fb_finite ha.fb_pos,
    F64.le_of_toReal_le ha.fb_finite ha.fs_finite ha.fb_pos ha.fb_le, div_spsMax_le_clampFb hfs hfb hfsPos, hfcRange,
    fun hempty => clampFc_of_empty hempty _, hlbwMin, hlbwMax, (F64.fmax_spec (F64.isFinite_not_isNaN hthr) hzero).2.2,
    hfftpMin, hfftpMax, ha.reals_finite, rfl⟩

/-- Settles O17. -/
theorem eventPop : Obligations.EventPop := by
  refine ⟨fun s v rest hp => step_evPop hp, fun s e tl hfifo => ?_, fun s hfifo n hn => ?_⟩
  · have hword (n : Fin 8) : readWord s (0x150 + 4 * n) = e.word n := by rw [readWord_evWord, hfifo]; rfl
    exact ⟨hword 0, hword 1, hword 2, hword 3, hword 4, hword 5, hword 6, hword 7⟩
  · have hword := readWord_evWord s ⟨n, hn⟩
    rwa [hfifo] at hword

/-- Settles O20. -/
theorem nopAndFlush : Obligations.NopAndFlush :=
  ⟨execNop_eq, fun _ hf => execEvFlush_of_no_fault hf, fun _ hf => execEvFlush_of_fault hf⟩

end Sys2Proof.Settled
end

section
/-! SUPPORT. Faults (20_memory.md R83; 60_exceptions.md R400 to R404): the fault action, what a step that ends faulted has done, and the
accesses that a faulted block accepts: statements O9, O10 and O11. -/

namespace Sys2Proof.Machine

-- One theorem at a time: elaborated side by side, they ask for more threads than the memory limit allows.
set_option Elab.async false

/-! ### O10: the fault action (R401) -/

/-- Settles O10: the push of the FAULT event by its two cases, and each code by its number. -/
theorem faultAction : Obligations.FaultAction := by
  intro c info s code t
  have hcode : c.code = code := by cases c <;> rfl
  rw [raiseFault_eq, hcode]
  rcases State.push_cases { s with fault := true, err := BitVec.ofNat 8 code, errInfo := info } (.fault c info) with
    ⟨hfull, heq⟩ | ⟨hroom, heq⟩ <;> rw [heq]
  · exact (if_pos hfull).symm
  · rw [if_neg (show ¬s.fifo.length = 64 from hroom), Event.record, hcode]
    rfl

/-! ### The computations of the datapath raise no BUS fault

BUS is the one fault of an access (R83); what an instruction computes can fault with BAD_ARG, BAD_SETTINGS or ZERO_DIV (R400). -/

/-- A computation whose fault, if it raises one, is not BUS. -/
def RaisesNoBus {α : Type} (x : Res α) : Prop := x ≠ .error .bus

section RaisesNoBus

variable {α β : Type}

theorem raisesNoBus_ok (a : α) : RaisesNoBus (.ok a : Res α) := nofun

theorem raisesNoBus_error {c : FaultCode} (hc : c ≠ .bus) : RaisesNoBus (.error c : Res α) :=
  fun h => hc (Except.error.inj h)

theorem RaisesNoBus.map {x : Res α} (h : RaisesNoBus x) (f : α → β) : RaisesNoBus (x.map f) := by
  cases x with
  | error c => exact raisesNoBus_error fun hc => h (congrArg _ hc)
  | ok a => exact raisesNoBus_ok _

theorem RaisesNoBus.bind {x : Res α} (h : RaisesNoBus x) {f : α → Res β} (hf : ∀ a, RaisesNoBus (f a)) :
    RaisesNoBus (x >>= f) := by
  cases x with
  | error c => exact raisesNoBus_error fun hc => h (congrArg _ hc)
  | ok a => exact hf a

end RaisesNoBus

theorem phaseword_raisesNoBus (x : F64) : RaisesNoBus (phaseword x) := by
  rcases phaseword_cases x with ⟨-, h⟩ | ⟨-, h⟩ <;> rw [h]
  · exact raisesNoBus_error (by decide)
  · exact raisesNoBus_ok _

theorem Osc.advanceFraction_raisesNoBus (o : Osc) (x : F64) : RaisesNoBus (o.advanceFraction x) :=
  (phaseword_raisesNoBus x).map _

theorem Osc.setPhase_raisesNoBus (o : Osc) (deg : F64) : RaisesNoBus (o.setPhase deg) := (phaseword_raisesNoBus _).map _

theorem Osc.setPoint_raisesNoBus (o : Osc) (f : F64) : RaisesNoBus (o.setPoint f) := (phaseword_raisesNoBus f).map _

theorem Osc.setFrequency_raisesNoBus (o : Osc) (hz fs : F64) : RaisesNoBus (o.setFrequency hz fs) := by
  rcases o.setFrequency_cases hz fs with h | ⟨-, -, -, -, h⟩ <;> rw [h]
  · exact raisesNoBus_error (by decide)
  · exact raisesNoBus_ok _

theorem State.retune_raisesNoBus (s : State) (hz : F64) : RaisesNoBus (s.retune hz) :=
  (Osc.setFrequency_raisesNoBus _ hz _).map _

theorem State.gateStep_raisesNoBus (s : State) : RaisesNoBus s.gateStep := by
  unfold State.gateStep
  split
  · exact raisesNoBus_ok _
  · exact raisesNoBus_ok _
  · split
    · exact raisesNoBus_ok _
    · dsimp only
      split
      · exact State.retune_raisesNoBus _ _
      · exact raisesNoBus_ok _

theorem State.acceptActions_raisesNoBus (s : State) (lo hi : Int) (hzb : F64) (b : Cplx) :
    RaisesNoBus (s.acceptActions lo hi hzb b) :=
  (s.retune_raisesNoBus _).bind fun _ => (phaseword_raisesNoBus _).bind fun _ => raisesNoBus_ok _

/-- The verification faults with ZERO_DIV, or as its acceptance does (R249, R411). -/
theorem State.verify_raisesNoBus (s : State) : RaisesNoBus s.verify := by
  unfold State.verify State.verifyWith
  dsimp only
  split
  · exact raisesNoBus_error (by decide)
  · split
    · split
      · exact raisesNoBus_error (by decide)
      · split
        · exact State.acceptActions_raisesNoBus _ _ _ _ _
        · exact raisesNoBus_ok _
    · exact raisesNoBus_ok _

theorem State.acquire_raisesNoBus (s : State) (xm : Cplx) : RaisesNoBus (s.acquire xm) := by
  unfold State.acquire State.burstStep State.fillStep
  dsimp only
  split
  · exact raisesNoBus_ok _
  · split
    · split
      · exact State.verify_raisesNoBus _
      · exact raisesNoBus_ok _
    · exact raisesNoBus_ok _

theorem State.trackSample_raisesNoBus (s : State) (xm : Cplx) : RaisesNoBus (s.trackSample xm) :=
  ((Osc.advanceFraction_raisesNoBus _ _).map _).map _

theorem Osc.frequencyTerm_raisesNoBus (o : Osc) (settled : Bool) (e : F64) : RaisesNoBus (o.frequencyTerm settled e) := by
  cases settled
  · exact raisesNoBus_ok o
  · exact (phaseword_raisesNoBus _).map _

theorem State.stageSymbol_raisesNoBus (s : State) (zc zd : Cplx) : RaisesNoBus (s.stageSymbol zc zd) :=
  have hcarrier : RaisesNoBus (s.carrierUpdate zc zd) :=
    (Osc.advanceFraction_raisesNoBus _ _).bind fun o => (o.frequencyTerm_raisesNoBus _ _).bind fun _ => raisesNoBus_ok _
  hcarrier.map _

/-- The sample step, stage by stage (R350). -/
theorem State.sampleCore_raisesNoBus (s : State) (i q : Int) : RaisesNoBus (s.sampleCore i q) := by
  have hend (u : State) : RaisesNoBus (u.gateStep >>= fun s11 => .ok s11.stageCount) :=
    u.gateStep_raisesNoBus.bind fun _ => raisesNoBus_ok _
  refine (State.acquire_raisesNoBus _ _).bind fun s3 => (s3.trackSample_raisesNoBus _).bind fun tr => ?_
  split
  · exact (State.stageSymbol_raisesNoBus _ _ _).bind hend
  · exact hend _

/-! ### An instruction's faults carry its word (R401 to R403) -/

/-- From `s`, the instruction of the word `w` leaves a block that is not faulted, or took a fault other than BUS with `w` as its
information, and did nothing else. -/
def State.FaultsOn (s : State) (w : Word) (t : State) : Prop :=
  t.fault = true → ∃ c, c ≠ .bus ∧ t = raiseFault c w s

theorem State.faultsOn_of_fault_eq_false {s t : State} {w : Word} (h : t.fault = false) : s.FaultsOn w t :=
  fun ht => absurd (h.symm.trans ht) Bool.false_ne_true

theorem raiseFault_faultsOn {c : FaultCode} (hc : c ≠ .bus) (w : Word) (s : State) : s.FaultsOn w (raiseFault c w s) :=
  fun _ => ⟨c, hc, rfl⟩

/-- The commands of the units write no fault register. -/
theorem State.Commanded.fault_eq {s t : State} (h : s.Commanded t) : t.fault = s.fault := by
  cases h with
  | osc k o | passed k o x => cases k <;> rfl
  | ema k x y => cases k <;> rfl
  | _ => rfl

theorem writeReg_fault (s : State) (r : Reg) (v : Word) : (writeReg s r v).fault = s.fault := by
  cases r with
  | oscPhase k | oscFtw k | oscPoint k => cases k <;> rfl
  | _ => rfl

section FaultsOn

variable {s : State} (hf : s.fault = false)

include hf

/-- Refused arguments, a faulting computation and the commit check all fault on the state before the command (R118, R403, R412). -/
theorem runCommand_faultsOn {w : Word} {args : List F64} {body : Res (State × List F64)} (hbody : RaisesNoBus body)
    (ht : ∀ t written, body = .ok (t, written) → t.fault = s.fault) : s.FaultsOn w (runCommand w args s body) := by
  have hbad : FaultCode.badArg ≠ .bus := by decide
  rcases runCommand_cases w args s body with ⟨-, e⟩ | ⟨-, -, e⟩ | ⟨-, -, c, hc, e⟩ | ⟨-, -, t, wr, -, -, e⟩ | ⟨-, -, t, wr, hb, -, e⟩ <;>
    rw [e]
  · exact State.faultsOn_of_fault_eq_false hf
  · exact raiseFault_faultsOn hbad w s
  · exact raiseFault_faultsOn (fun h => hbody (h ▸ hc)) w s
  · exact raiseFault_faultsOn hbad w s
  · exact State.faultsOn_of_fault_eq_false ((ht t wr hb).trans hf)

/-- A command whose computation cannot fault. -/
theorem runCommand_ok_faultsOn {w : Word} {args written : List F64} {t : State} (ht : t.fault = s.fault) :
    s.FaultsOn w (runCommand w args s (.ok (t, written))) :=
  runCommand_faultsOn hf (raisesNoBus_ok _) fun u wr hu => by
    obtain ⟨rfl, -⟩ := Prod.mk.inj (Except.ok.inj hu)
    exact ht

/-- A command that computes an oscillator. -/
theorem oscCommand_faultsOn {w : Word} {args : List F64} {k : OscId} {r : Res Osc} (hr : RaisesNoBus r) :
    s.FaultsOn w (runCommand w args s (r.map fun o => (s.setOsc k o, []))) :=
  runCommand_faultsOn hf (hr.map _) fun u wr hu => by
    obtain ⟨o, -, ho⟩ := map_ok hu
    obtain ⟨rfl, -⟩ := Prod.mk.inj ho
    exact (State.Commanded.osc k o).fault_eq

theorem execApply_faultsOn : ∃ t, execApply s = .next t ∧ s.FaultsOn (encodeWord .apply) t := by
  by_cases hlegal : settingsLegal s.pend = true
  · refine ⟨_, execApply_of_legal hf hlegal, State.faultsOn_of_fault_eq_false ?_⟩
    obtain ⟨hfault, -⟩ := s.applyEvent_frame s.applied
    exact hfault.trans hf
  · exact ⟨_, execApply_of_illegal hf hlegal, raiseFault_faultsOn (by decide) _ s⟩

/-- A sample is refused, rolled back whole with its word, or leaves FAULT as it was (R351, R354). -/
theorem runSample_faultsOn (i q : Int) : s.FaultsOn (sampleWord i q) (runSample i q s) := by
  rcases runSample_cases i q s with ⟨-, e⟩ | ⟨-, -, e⟩ | ⟨-, -, c, hc, e⟩ | ⟨-, -, t, -, -, e⟩ | ⟨-, -, t, ht, -, e⟩ <;> rw [e]
  · exact State.faultsOn_of_fault_eq_false hf
  · exact State.faultsOn_of_fault_eq_false hf
  · exact raiseFault_faultsOn (fun h => s.sampleCore_raisesNoBus i q (h ▸ hc)) _ s
  · exact raiseFault_faultsOn (by decide) _ s
  · exact State.faultsOn_of_fault_eq_false ((congrArg Outer.fault (State.sampleCore_outer ht)).trans hf)

/-- Every instruction faults precisely, with the word it is encoded as. -/
theorem exec_faultsOn (i : Instr) : ∃ t, exec i s = .next t ∧ s.FaultsOn (encodeWord i) t := by
  cases i with
  | nop | evFlush => exact ⟨_, rfl, runCommand_ok_faultsOn hf rfl⟩
  | apply => exact execApply_faultsOn hf
  | reset => exact ⟨_, rfl, State.faultsOn_of_fault_eq_false rfl⟩
  | ncoSetfreqMix | ncoSetfreqTim | ncoSetfreqCar => exact ⟨_, rfl, oscCommand_faultsOn hf (Osc.setFrequency_raisesNoBus _ _ _)⟩
  | ncoSetphaseMix | ncoSetphaseTim | ncoSetphaseCar => exact ⟨_, rfl, oscCommand_faultsOn hf (Osc.setPhase_raisesNoBus _ _)⟩
  | ncoAdvfracMix | ncoAdvfracTim | ncoAdvfracCar => exact ⟨_, rfl, oscCommand_faultsOn hf (Osc.advanceFraction_raisesNoBus _ _)⟩
  | ncoSetpointMix | ncoSetpointTim | ncoSetpointCar => exact ⟨_, rfl, oscCommand_faultsOn hf (Osc.setPoint_raisesNoBus _ _)⟩
  | ncoValueMix | ncoValueTim | ncoValueCar | qgSlice =>
    exact ⟨_, rfl, runCommand_ok_faultsOn hf (State.Commanded.results _).fault_eq⟩
  | ncoAdvanceMix | ncoAdvanceTim | ncoAdvanceCar =>
    exact ⟨_, rfl, runCommand_ok_faultsOn hf (State.Commanded.osc _ _).fault_eq⟩
  | ncoPassedMix | ncoPassedTim | ncoPassedCar =>
    exact ⟨_, rfl, runCommand_ok_faultsOn hf (State.Commanded.passed _ _ _).fault_eq⟩
  | emaPushBtS | emaPushBtL | emaPushQgMse | emaPushTed =>
    exact ⟨_, rfl, runCommand_ok_faultsOn hf (State.Commanded.ema _ _ _).fault_eq⟩
  | dlPushDlTim | dlPushDlSym | mfPush | resPush | agcPush | sbQuant => exact ⟨_, rfl, runCommand_ok_faultsOn hf rfl⟩
  | sample i q => exact ⟨_, rfl, runSample_faultsOn hf i q⟩

/-- A written word faults precisely, legal or not: a legal one is the encoding of its instruction (R115, R120). -/
theorem runWord_faultsOn (p : Port) (w : Word) : ∃ t, runWord p w s = .next t ∧ s.FaultsOn w t := by
  unfold runWord
  split
  case h_1 i hd =>
    have hword : encodeWord i = w := congrArg Prod.snd (encodeDecode.1 p w i hd).2
    exact hword ▸ exec_faultsOn hf i
  case h_2 => exact ⟨_, rfl, raiseFault_faultsOn (by decide) w s⟩

theorem writeWord_faultsOn (off : Nat) (v : Word) : ∃ t, writeWord off v s = .next t ∧ s.FaultsOn v t := by
  rcases writeWord_cases off v s with ⟨-, e⟩ | ⟨-, e⟩ | ⟨r, -, -, -, e⟩ | ⟨-, e⟩ <;> rw [e]
  · exact runWord_faultsOn hf _ v
  · exact runWord_faultsOn hf _ v
  · exact ⟨_, rfl, State.faultsOn_of_fault_eq_false ((writeReg_fault s r v).trans hf)⟩
  · exact ⟨_, rfl, State.faultsOn_of_fault_eq_false hf⟩

/-- An access that leaves the block faulted took one fault and did nothing else: BUS with the offset, or another with the word
written (R83, R401 to R403). -/
theorem takeAccess_precise {t : State} {a : Access} (h : takeAccess a s = .next t) (ht : t.fault = true) :
    ∃ c info r, t = (raiseFault c info s).respond r ∧
      if c = .bus then info = BitVec.ofNat 32 a.off else a.kind = .write info := by
  have hclear (r : Option Word) : (s.respond r).fault ≠ true := by rw [State.respond_fault, hf]; decide
  rcases takeAccess_cases a s with ⟨-, -, e⟩ | ⟨-, -, e⟩ | ⟨-, -, e⟩ | ⟨-, -, v, hk, e⟩ <;> rw [e] at h
  · exact absurd (Host.Outcome.next.inj h ▸ ht) (hclear _)
  · exact ⟨.bus, _, _, (Host.Outcome.next.inj h).symm, rfl⟩
  · exact absurd (Host.Outcome.next.inj h ▸ ht) (hclear _)
  · obtain ⟨u, hu, hon⟩ := writeWord_faultsOn hf a.off v
    obtain rfl : u = t := Host.Outcome.next.inj (hu.symm.trans h)
    obtain ⟨c, hc, rfl⟩ := hon ht
    exact ⟨c, v, (raiseFault c v s).bus.resp, rfl, by rwa [if_neg hc]⟩

end FaultsOn

/-! ### O11: faults are precise -/

/-- Settles O11: a step that ends faulted took an access of the window, and the access faulted precisely. -/
theorem faultsArePrecise : Obligations.FaultsArePrecise := by
  intro s t hf hstep ht
  cases hp : s.bus.pending with
  | nil =>
    rw [step_idle hp] at hstep
    rw [← Host.Outcome.next.inj hstep, hf] at ht
    cases ht
  | cons a rest =>
    rcases lt_or_ge a.off 0x1000 with ho | ho
    · rw [step_access hp ho] at hstep
      obtain ⟨c, info, r, heq, hinfo⟩ := takeAccess_precise ((State.takeAccess_fault s rest).trans hf) hstep ht
      exact ⟨a, rest, c, info, r, rfl, heq, hinfo⟩
    · rw [step_outside hp ho] at hstep
      cases hstep

/-! ### O9: what a faulted block accepts (R404) -/

/-- The three kinds of access accepted while FAULT = 1, written out. -/
theorem acceptedWhileFaulted_iff {a : Access} : a.acceptedWhileFaulted = true ↔
    (a.width = .w32 ∧ a.off % 4 = 0 ∧ a.kind = .read) ∨ (∃ v, a = write32 evPopOffset v) ∨ a = write32 0x010 0x02000000 := by
  have hreset : cmdWord 0x02 0 = 0x02000000 := by decide
  obtain ⟨kind, width, off⟩ := a
  cases kind with
  | read => simp [Access.acceptedWhileFaulted, Access.aligned32, write32]
  | write v =>
    simp only [Access.acceptedWhileFaulted, Access.aligned32, write32, hreset, cmdOffset, evPopOffset, Bool.and_eq_true,
      Bool.or_eq_true, beq_iff_eq, Access.mk.injEq, AccessKind.write.injEq, reduceCtorEq, and_false, false_or, exists_eq_left']
    constructor
    · rintro ⟨⟨rfl, -⟩, rfl | ⟨rfl, rfl⟩⟩
      · exact .inl ⟨rfl, rfl⟩
      · exact .inr ⟨rfl, rfl, rfl⟩
    · rintro (⟨rfl, rfl⟩ | ⟨rfl, rfl, rfl⟩)
      · exact ⟨⟨rfl, rfl⟩, .inl rfl⟩
      · exact ⟨⟨rfl, rfl⟩, .inr ⟨rfl, rfl⟩⟩

theorem eq_read32 {a : Access} (hw : a.width = .w32) (hk : a.kind = .read) : a = read32 a.off := by
  obtain ⟨kind, width, off⟩ := a
  exact congrArg₂ (Access.mk · · off) hk hw

theorem eq_write32 {a : Access} {v : Word} (hw : a.width = .w32) (hk : a.kind = .write v) : a = write32 a.off v := by
  obtain ⟨kind, width, off⟩ := a
  exact congrArg₂ (Access.mk · · off) hk hw

/-- The reset word runs, faulted or not (R375, R404). -/
theorem step_resetWord {s : State} {rest : List Access} (hp : s.bus.pending = write32 0x010 0x02000000 :: rest) :
    step s = .next (resetAction (s.takeAccess rest)) := by
  obtain ⟨hrun, -⟩ := stepRunsDecoded .cmd 0x02000000 .reset s rest hp decode_resetWord
  exact hrun (.inr rfl)

theorem nullResp_eq (a : Access) : a.nullResp = if a.kind = .read then some 0 else none := by
  unfold Access.nullResp
  cases a.kind <;> rfl

/-- Settles O9: the accepted accesses by what each does, and every other one is refused. -/
theorem refusedWhileFaulted : Obligations.RefusedWhileFaulted := by
  intro s a rest hp ho hf
  split
  next hread =>
    obtain ⟨hw, hal, hk⟩ := hread
    rw [eq_read32 hw hk] at hp
    exact step_read32 hp ho hal
  next hread =>
    split
    next hpop =>
      obtain ⟨hw, hoff⟩ := hpop
      cases hk : a.kind with
      | read => exact absurd ⟨hw, by rw [hoff], hk⟩ hread
      | write v =>
        rw [eq_write32 hw hk, hoff] at hp
        exact step_evPop hp
    next hpop =>
      split
      next hreset =>
        rw [hreset] at hp
        exact step_resetWord hp
      next hreset =>
        have hshut : a.acceptedWhileFaulted = false := by
          rw [← Bool.not_eq_true, acceptedWhileFaulted_iff]
          rintro (h | ⟨v, rfl⟩ | h)
          · exact hread h
          · exact hpop ⟨rfl, rfl⟩
          · exact hreset h
        rw [step_refused hp ho hf hshut, nullResp_eq]
        rfl

end Sys2Proof.Machine
end

section
/-! SUPPORT. The reset state meets the invariants, and the underflow of the bin spacing (46_control.md R371; 60_exceptions.md R411, R412;
70_reset_and_hazards.md R450): statements O57 and O26. -/

namespace Sys2Proof.Machine

-- One theorem at a time: elaborated side by side, they ask for more threads than the memory limit allows.
set_option Elab.async false

/-! ### O57: the reset state -/

/-- The reset state is what the reset action leaves (R450). -/
theorem resetAction_reset : resetAction State.reset = State.reset := rfl

/-- Settles O57: the shape and finiteness that RESET leaves, and the views that rebuild makes. -/
theorem resetMeetsInvariants : Obligations.ResetMeetsInvariants :=
  ⟨State.wf_iff.mpr (resetAction_reset ▸ reset_formed State.reset), modeViews_of_rebuild rfl,
    State.allFinite_iff.mpr (resetAction_reset ▸ reset_allFinite (s := State.reset))⟩

/-! ### O26: the bin spacing can underflow -/

/-- Legal settings with the smallest positive binary64 value, 2^-1074, as the sample rate (R371). -/
def leastRateSettings : Settings := { defaultSettings with fs := ⟨1⟩ }

/-- Refutes O26: 2^-1074 / 4096 is nearer to 0 than to 2^-1074, so the quotient rounds to +0.0 (log 20). -/
theorem not_binSpacingAlwaysPositive : ¬ Obligations.BinSpacingAlwaysPositive := by
  intro h
  have hlegal : settingsLegal leastRateSettings = true := by decide
  have hspacing : binSpacing (activeOf leastRateSettings 0).fs 4096 = F64.zero := by
    show binSpacing ⟨1⟩ 4096 = F64.zero
    decide +kernel
  have hpos := h leastRateSettings 0 hlegal
  rw [hspacing] at hpos
  exact absurd hpos (by decide)

end Sys2Proof.Machine
end

section
/-! SUPPORT. The frequency hunter's scan, one candidate after another (60_exceptions.md R443, R444, R449): statement O60. -/

namespace Sys2Proof.Machine

-- One theorem at a time: elaborated side by side, they ask for more threads than the memory limit allows.
set_option Elab.async false

/-! ### absent() (R444) -/

/-- The end of the scan: the candidate lies above maxFreq − bandwidth / 2. -/
def HunterParams.beyond (p : HunterParams) (counter : Nat) : Bool :=
  F64.lt (p.maxFreq.sub (p.bandwidth.div F64.two)) (p.candidate counter)

section Absent

variable {p : HunterParams} {h : Hunter}

theorem Hunter.absent_between (hc : (h.counter + 1) % p.maxTries ≠ 0) :
    h.absent p = ({ h with counter := h.counter + 1 }, []) := if_neg hc

theorem Hunter.absent_candidate (hc : (h.counter + 1) % p.maxTries = 0) (hb : p.beyond (h.counter + 1) = false) :
    h.absent p = ({ h with counter := h.counter + 1 }, [.newFreqCenter (p.candidate (h.counter + 1))]) :=
  (if_pos hc).trans (if_neg (ne_true_of_eq_false hb))

theorem Hunter.absent_exhausted (hc : (h.counter + 1) % p.maxTries = 0) (hb : p.beyond (h.counter + 1) = true) :
    h.absent p = ({ h with counter := 0, fullscans := h.fullscans + 1 }, [.newFreqCenter F64.zero, .scanExhausted]) :=
  (if_pos hc).trans (if_pos hb)

end Absent

/-! ### maxTries updates in a row -/

section Absents

variable {p : HunterParams} {h g : Hunter} {n k : Nat} {outs : List (Nat × HunterOut)}

/-- One more update (R444). -/
theorem Hunter.absents_succ (hn : h.absents p n = (g, outs)) :
    h.absents p (n + 1) = ((g.absent p).1, outs ++ (g.absent p).2.map fun o => (n + 1, o)) := by
  rw [Hunter.absents, hn]

/-- Fewer than maxTries updates behind a candidate emit nothing. -/
theorem Hunter.absents_between (hn : h.absents p n = (g, outs)) (hg : g.counter = p.maxTries * k) (j : Nat)
    (hj : j < p.maxTries) : h.absents p (n + j) = ({ g with counter := g.counter + j }, outs) := by
  induction j with
  | zero => exact hn
  | succ j ih =>
    have hsilent : (g.counter + j + 1) % p.maxTries ≠ 0 := by
      rw [hg, Nat.add_assoc, Nat.mul_add_mod, Nat.mod_eq_of_lt hj]
      exact Nat.succ_ne_zero j
    rw [← Nat.add_assoc, Hunter.absents_succ (ih (Nat.lt_of_succ_lt hj)), Hunter.absent_between hsilent]
    simp [Nat.add_assoc]

/-- The update that completes maxTries of them: it is the one absent() that takes a candidate. -/
theorem Hunter.absents_maxTries (hpos : 0 < p.maxTries) (hn : h.absents p n = (g, outs)) (hg : g.counter = p.maxTries * k) :
    h.absents p (n + p.maxTries) =
      if p.beyond (p.maxTries * (k + 1)) = true then
        ({ g with counter := 0, fullscans := g.fullscans + 1 },
          outs ++ [(n + p.maxTries, .newFreqCenter F64.zero), (n + p.maxTries, .scanExhausted)])
      else
        ({ g with counter := p.maxTries * (k + 1) },
          outs ++ [(n + p.maxTries, .newFreqCenter (p.candidate (p.maxTries * (k + 1))))]) := by
  obtain ⟨j, hj⟩ : ∃ j, p.maxTries = j + 1 := Nat.exists_eq_add_one.mpr hpos
  have hlast := Hunter.absents_between hn hg j (by omega)
  have hcount : g.counter + j + 1 = p.maxTries * (k + 1) := by rw [hg, Nat.mul_succ]; omega
  have hmult : (g.counter + j + 1) % p.maxTries = 0 := by rw [hcount, Nat.mul_mod_right]
  have hupdates : n + p.maxTries = n + j + 1 := by rw [hj, Nat.add_assoc]
  rw [hupdates, Hunter.absents_succ hlast, ← hcount]
  split_ifs with hb
  · rw [Hunter.absent_exhausted (h := { g with counter := g.counter + j }) hmult hb]
    rfl
  · rw [Hunter.absent_candidate (h := { g with counter := g.counter + j }) hmult (Bool.eq_false_of_not_eq_true hb)]
    rfl

end Absents

/-! ### O60: the scan from 0 to 6000 Hz in steps of 450 Hz -/

/-- The parameters of R449. -/
def scenarioParams : HunterParams :=
  { minFreq := ⟨0⟩, maxFreq := ⟨0x40B7700000000000⟩, bandwidth := ⟨0x408C200000000000⟩, maxTries := 15 }

/-- Candidate k is 450·k Hz, and the first twelve lie below the end of the scan. -/
theorem scenario_candidates : ∀ k < 12, scenarioParams.candidate (15 * (k + 1)) = F64.ofNat (450 * (k + 1)) ∧
    scenarioParams.beyond (15 * (k + 1)) = false := by decide +kernel

/-- Candidate 13, 5850 Hz, is beyond the end of the scan, 5550 Hz. -/
theorem scenario_end : scenarioParams.beyond (15 * 13) = true := by decide +kernel

/-- The outputs of the first k rounds of fifteen updates. -/
def scenarioOuts (k : Nat) : List (Nat × HunterOut) :=
  (List.range k).map fun j => (15 * (j + 1), .newFreqCenter (F64.ofNat (450 * (j + 1))))

theorem scenarioOuts_succ (k : Nat) :
    scenarioOuts (k + 1) = scenarioOuts k ++ [(15 * (k + 1), .newFreqCenter (F64.ofNat (450 * (k + 1))))] := by
  rw [scenarioOuts, List.range_succ, List.map_append]
  rfl

/-- After k ≤ 12 rounds the counter stands at the last candidate. -/
theorem scenario_rounds (k : Nat) (hk : k ≤ 12) :
    Hunter.start.absents scenarioParams (15 * k) = ({ Hunter.start with counter := 15 * k }, scenarioOuts k) := by
  induction k with
  | zero => rfl
  | succ k ih =>
    obtain ⟨hcand, hin⟩ := scenario_candidates k hk
    have hround := (Hunter.absents_maxTries (p := scenarioParams) (k := k) (by decide) (ih (Nat.le_of_succ_le hk)) rfl).trans
      (if_neg (ne_true_of_eq_false hin))
    rw [scenarioOuts_succ, ← hcand]
    exact hround

/-- Update 195 exhausts the scan. -/
theorem scenario_exhausted : Hunter.start.absents scenarioParams 195 =
    ({ counter := 0, fullscans := 1, dcdPrev := false },
      scenarioOuts 12 ++ [(195, .newFreqCenter F64.zero), (195, .scanExhausted)]) :=
  (Hunter.absents_maxTries (p := scenarioParams) (k := 12) (by decide) (scenario_rounds 12 le_rfl) rfl).trans
    (if_pos scenario_end)

/-- Update 210 emits the first candidate again. -/
theorem scenario_again : Hunter.start.absents scenarioParams 210 =
    ({ counter := 15, fullscans := 1, dcdPrev := false },
      scenarioOuts 12 ++ [(195, .newFreqCenter F64.zero), (195, .scanExhausted)] ++ [(210, .newFreqCenter (F64.ofNat 450))]) := by
  obtain ⟨hcand, hin⟩ := scenario_candidates 0 (by decide)
  rw [show 450 = 450 * (0 + 1) from rfl, ← hcand]
  exact (Hunter.absents_maxTries (p := scenarioParams) (k := 0) (by decide) scenario_exhausted rfl).trans
    (if_neg (ne_true_of_eq_false hin))

/-- Settles O60: twelve rounds with a candidate each, the round that ends the scan, and one more. -/
theorem hunterScenario : Obligations.HunterScenario :=
  ⟨congrArg Prod.fst scenario_exhausted, congrArg Prod.fst scenario_again,
    (congrArg Prod.snd scenario_again).trans (List.append_assoc _ _ _)⟩

end Sys2Proof.Machine
end
